-- ==== Sys2Proof/Word.lean ====
section
/-! DEFINITION. The data types of the core: bytes, words, blocks, schedules, packed values, command words
(spec/00_scope.md R4, R6). Everything is unsigned; addition of the field is exclusive-or (R71). -/

namespace Sys2Proof

/-- A byte, bit 7 the most significant (R6). -/
abbrev Byte := BitVec 8

/-- A word of the key schedule: a byte sequence of length 4, never an integer (R6). -/
abbrev Word := Vector Byte 4

/-- Sixteen bytes in conventional order, `S[0]` first: the cipher state, a key, a round key (R7, R10). -/
abbrev Block := Vector Byte 16

/-- The 176 bytes of a round-key schedule (R12). -/
abbrev Schedule := Vector Byte 176

/-- A 128-bit value as it crosses `din` or `dout` (R6). -/
abbrev Packed := BitVec 128

/-- A host command word `cw[129:0]`, `cmd` above `din` (R50). -/
abbrev CommandWord := BitVec 130

end Sys2Proof
end

