-- ==== Sys2Proof/Config.lean ====
section
/-! DEFINITION. What is fixed for the machine: the parameters of spec/00_scope.md R4 and R5, and the free
values, constants without a body for what the spec leaves unspecified (U1, U3, U4, U6, U19). -/

namespace Sys2Proof.Config

/-- Words per round-key group (R4). -/
def Nb : Nat := 4
/-- Rounds (R4). -/
def Nr : Nat := 10
/-- Words in the key (R4). -/
def Nk : Nat := 4
/-- Words in the schedule, `Nb * (Nr + 1)` (R4). -/
def NWORDS : Nat := 44
/-- Bytes in the schedule, the size of the space `RK` (R4, R30). -/
def NRKBYTES : Nat := 176
/-- Round keys, rounds 0 to 10 (R4). -/
def NGROUPS : Nat := 11
/-- Datapath instances (R5, decision D20). -/
def P : Nat := 1
/-- The reduction constant of the field, x^8+x^4+x^3+x+1 without its top term (R4, R69). -/
def fieldConstant : Byte := 0x1b#8

/-- FREE VALUE: entry 0 of the round-constant ROM, which no rule reads (R67, D19, U6; DESIGN CHOICE, log entry 8). -/
opaque rconZero : Byte

/-- FREE VALUE: what `S` holds after an `rst` event, one value for each draw (R155, U1, U19; DESIGN CHOICE, log entry 1). -/
opaque freeS : Nat → Block

/-- FREE VALUE: what `round` holds after an `rst` event (R155, U3; DESIGN CHOICE, log entry 1). -/
opaque freeRound : Nat → BitVec 4

/-- FREE VALUE: what `widx` holds after an `rst` event and after the last key-expansion step
(R155, R16, U3; DESIGN CHOICE, log entries 1 and 7). -/
opaque freeWidx : Nat → BitVec 6

/-- FREE VALUE: what `dout` holds after an `rst` event (R155, U4; DESIGN CHOICE, log entry 1). -/
opaque freeDout : Nat → Packed

end Sys2Proof.Config
end

