-- ==== Sys2Proof/Syntax.lean ====
section
/-! DEFINITION. The operations of the core: one constructor per row of spec/opcode_table.json, in the table's
order (spec/30_encoding.md R61). -/

namespace Sys2Proof

/-- The values of the sequencer register `phase` (R14, decision D7). -/
inductive Phase where
  /-- No work in hand. -/
  | idle
  /-- Key expansion in progress. -/
  | keyexp
  /-- A block is unpacked into `S`; no round key added yet. -/
  | initial
  /-- Round keys 0 up to `round` have been added. -/
  | round
  /-- The block is finished and `dout` holds it. -/
  | done
deriving DecidableEq, Repr

/-- The operations with a rule (R61). The four host commands carry `din` whole, even where it is ignored (R54),
so that no bit of a command word is lost. The sequencer steps carry nothing: their operands are registers (R56).
The functions and the host procedures carry their operands (R57, R126, R127). -/
inductive Instr where
  /-- `NOP` (R121). -/
  | nop (din : Packed)
  /-- `LOADKEY` (R122), `din` a packed key. -/
  | loadkey (din : Packed)
  /-- `ENCRYPT` (R123), `din` a packed block. -/
  | encrypt (din : Packed)
  /-- `RSVD`, the reserved code 11 (R53, R139). -/
  | rsvd (din : Packed)
  /-- `KX.STEP` (R111). -/
  | kxStep
  /-- `RND.INIT` (R107). -/
  | rndInit
  /-- `RND.FULL` (R108). -/
  | rndFull
  /-- `RND.FINAL` (R109). -/
  | rndFinal
  /-- `RND.DONE` (R110). -/
  | rndDone
  /-- `SBOX` (R66). -/
  | sbox (b : Byte)
  /-- `RCON` (R68), `j` in 1..10. -/
  | rcon (j : Nat)
  /-- `XTIME` (R69). -/
  | xtime (b : Byte)
  /-- `ROTWORD` (R75). -/
  | rotword (t : Word)
  /-- `SUBWORD` (R76). -/
  | subword (t : Word)
  /-- `KEXPWORD` (R77), `i` in 4..43, the word before and the word four back. -/
  | kexpword (i : Nat) (p q : Word)
  /-- `EXPANDKEY` (R78). -/
  | expandkey (k : Block)
  /-- `ADDROUNDKEY` (R85), `g` in 0..10. -/
  | addroundkey (g : Nat) (st : Block) (r : Schedule)
  /-- `SUBBYTES` (R86). -/
  | subbytes (st : Block)
  /-- `SHIFTROWS` (R87). -/
  | shiftrows (st : Block)
  /-- `MIXCOLUMNS` (R88). -/
  | mixcolumns (st : Block)
  /-- `UNPACK` (R95). -/
  | unpack (v : Packed)
  /-- `PACK` (R96). -/
  | pack (st : Block)
  /-- `UNPACKKEY` (R97). -/
  | unpackkey (v : Packed)
  /-- `CIPHER` (R106). -/
  | cipher (st : Block) (r : Schedule)
  /-- `ENCRYPTBLOCKSHW` (R126), a host procedure on packed values. -/
  | encryptblockshw (k : Packed) (vs : List Packed)
  /-- `ENCRYPTBLOCKS` (R127), the host procedure on byte sequences of any length. -/
  | encryptblocks (key : List Byte) (blocks : List (List Byte))
deriving DecidableEq, Repr

end Sys2Proof
end

