-- ==== Sys2Proof/Machine/State.lean ====
section
/-! DEFINITION. The state of the machine: every register and store of spec/10_state.md, and the model's own fields
(the host's coming actions, what the host has read, what was returned to a caller, the free-value counter). Plain
data. -/

namespace Sys2Proof.Machine

/-- The store `RK` as data: (offset, byte) pairs, offsets strictly rising, below 176 (R12, R30, R33). -/
abbrev Memory := List Host.Cell

/-- The four error causes (R135). -/
inductive ErrorCause where
  /-- Raised by `EncryptBlocks`, returned to the caller (R136). -/
  | invalidKeyLength
  /-- Raised by `EncryptBlocks`, returned to the caller (R137). -/
  | invalidBlockLength
  /-- Raised by `ENCRYPT` without a complete schedule, recorded in `err_nokey` (R138). -/
  | noKey
  /-- Raised by the reserved command, recorded in `err_badcmd` (R139). -/
  | reservedCommand
deriving DecidableEq, Repr

/-- What a pure function or a host procedure returned to whoever called it (R57, R126, R127). The model's own: the
spec gives these values no register (DESIGN CHOICE, log entry 9). -/
inductive Result where
  /-- Nothing was returned yet. -/
  | nothing
  /-- A byte (R66, R68, R69). -/
  | byte (b : Byte)
  /-- A word (R75 to R77). -/
  | word (w : Word)
  /-- A state or a key, sixteen bytes (R85 to R88, R95, R97, R106). -/
  | block (b : Block)
  /-- A schedule (R78). -/
  | schedule (r : Schedule)
  /-- A packed value (R96). -/
  | packed (v : Packed)
  /-- The ciphertexts of `EncryptBlocksHW`, in order (R126). -/
  | packedBlocks (cs : List Packed)
  /-- The ciphertexts of `EncryptBlocks`, in order (R127). -/
  | byteBlocks (cs : List Block)
  /-- The error of `EncryptBlocks` (R136, R137). -/
  | error (e : ErrorCause)
deriving DecidableEq, Repr

/-- One turn of the two agents (R9): what the host does next, or that the core moves (DESIGN CHOICE, log entry 5). -/
inductive HostEvent where
  /-- The host does nothing and the core takes its step, if it has one (R113, R130). -/
  | core
  /-- The host presents a command word for this moment only: lost if the core is busy (R120, R159). -/
  | present (cw : CommandWord)
  /-- The host presents a command word and holds it until it is accepted (R120, R159). -/
  | hold (cw : CommandWord)
  /-- `WAIT`: the host presents nothing until `busy = 0` (R59). -/
  | wait
  /-- The host reads `dout` once it sees `dout_valid = 1` (R124, R126, R130). -/
  | readDout
  /-- The host asserts `rst` (R155). -/
  | rst
  /-- The host runs `EncryptBlocksHW` (R126). -/
  | batchHw (k : Packed) (vs : List Packed)
  /-- The host runs `EncryptBlocks` (R127). -/
  | batch (key : List Byte) (blocks : List (List Byte))
deriving DecidableEq, Repr

/-- The state of the machine. -/
structure State where
  /-- The state register (R10). -/
  S : Block
  /-- The round-key store (R12). -/
  RK : Memory
  /-- The sequencer's phase (R14). -/
  phase : Phase
  /-- The index of the last round key added (R15). -/
  round : BitVec 4
  /-- The index of the next schedule word to compute (R16). -/
  widx : BitVec 6
  /-- `RK` holds the complete schedule of the last key loaded (R17). -/
  keyValid : Bool
  /-- The output register (R18). -/
  dout : Packed
  /-- `dout` is the ciphertext of the last block (R18). -/
  doutValid : Bool
  /-- The sticky flag of `NoKey` (R19). -/
  errNokey : Bool
  /-- The sticky flag of `ReservedCommand` (R19). -/
  errBadcmd : Bool
  /-- MODEL'S OWN: the coming turns of the host and the core (R9, R21; DESIGN CHOICE, log entry 5). -/
  host : List HostEvent
  /-- MODEL'S OWN: the values of `dout` the host has read, oldest first (R124; DESIGN CHOICE, log entry 19). -/
  received : List Packed
  /-- MODEL'S OWN: what was last returned to a caller (DESIGN CHOICE, log entry 9). -/
  result : Result
  /-- MODEL'S OWN: the number of free values drawn (DESIGN CHOICE, log entry 1). -/
  freeCount : Nat
deriving DecidableEq, Repr

/-- The faults: accesses the spec rules out. Every one is SAFE: the model stops where a claim must not go on. -/
inductive Fault where
  /-- Raised by `memRead` on a byte of `RK` that holds no value, after reset or inside an unfinished expansion
  (R155, D28). Safe: no rule's read reaches it from a reachable state (R12). -/
  | unwrittenRk
  /-- Raised by `memRead`, `memWrite` and the function `AddRoundKey` on an offset outside the address space or the
  schedule (R30, R33). Safe: no rule forms such an offset. -/
  | outsideSpace
deriving DecidableEq, Repr

/-- The refusals: what the spec gives no meaning. Every one is SAFE: the model stops. -/
inductive Refusal where
  /-- Raised by a dispatch arm whose instruction has no meaning yet; no arm is one at present. Safe. -/
  | notModelled (mnemonic : String)
  /-- Raised by a sequencer step in a state that does not select it (R56). Safe: the core never takes it there. -/
  | stepNotSelected
  /-- Raised by the core's turn in a busy state no row of R56 covers: `round` 11 to 15, `widx` 0 to 3 and 44 to 63
  (U7). Safe: unreachable (R25). -/
  | noStepSelected
  /-- Raised by the function `KEXPWORD` on an index outside 4 to 43 (R77). Safe: no such word is computed. -/
  | noSuchScheduleWord
  /-- Raised by a host procedure's wait after 40 core steps (R113). Safe: unreachable, a busy core is ready by then. -/
  | stillBusy
  /-- Raised by a host procedure whose wait for `dout_valid = 1` could not end (R126). Safe: unreachable. -/
  | resultNeverValid
deriving DecidableEq, Repr

/-- The outcome of one step or of one meaning. -/
abbrev Out := Host.Outcome State Fault Refusal

/-- The machine right after reset (R155). `phase` and the four flags are the spec's; `S`, `round`, `widx`, `dout` are
unspecified there and hold named values, zeros (DESIGN CHOICE, log entry 2); `RK` holds no value (DESIGN CHOICE,
log entry 3). -/
def State.reset : State where
  S := Vector.replicate 16 0
  RK := []
  phase := .idle
  round := 0
  widx := 0
  keyValid := false
  dout := 0
  doutValid := false
  errNokey := false
  errBadcmd := false
  host := []
  received := []
  result := .nothing
  freeCount := 0

end Sys2Proof.Machine
end

