-- ==== Sys2Proof/Machine/Flags.lean ====
section
/-! DEFINITION. The flags and views of spec/10_state.md section 4: `busy`, `STATUS`, the host's outputs, the codes of
`phase` (R14) and of the errors (R135). -/

namespace Sys2Proof

/-- The code of a phase (R14, D7). -/
def Phase.code : Phase → BitVec 3
  | .idle => 0
  | .keyexp => 1
  | .initial => 2
  | .round => 3
  | .done => 4

end Sys2Proof

namespace Sys2Proof.Machine

/-- The number of an error cause (R135, D14). -/
def ErrorCause.code : ErrorCause → Nat
  | .invalidKeyLength => 1
  | .invalidBlockLength => 2
  | .noKey => 3
  | .reservedCommand => 4

/-- `busy = 1` exactly in the phases `KEYEXP`, `INITIAL` and `ROUND` (R20). -/
def State.busy (s : State) : Bool :=
  match s.phase with
  | .idle => false
  | .keyexp => true
  | .initial => true
  | .round => true
  | .done => false

/-- `STATUS[4:0]` (R20): bits 4 to 0 are err_badcmd, err_nokey, dout_valid, key_valid, busy. -/
def State.status (s : State) : BitVec 5 :=
  BitVec.ofBool s.errBadcmd ++ BitVec.ofBool s.errNokey ++ BitVec.ofBool s.doutValid ++
    BitVec.ofBool s.keyValid ++ BitVec.ofBool s.busy

/-- The six outputs, all the host can observe (R9, R20). -/
structure Outputs where
  dout : Packed
  doutValid : Bool
  busy : Bool
  keyValid : Bool
  errNokey : Bool
  errBadcmd : Bool
deriving DecidableEq, Repr

/-- What the host observes of a state (R9). -/
def State.outputs (s : State) : Outputs where
  dout := s.dout
  doutValid := s.doutValid
  busy := s.busy
  keyValid := s.keyValid
  errNokey := s.errNokey
  errBadcmd := s.errBadcmd

end Sys2Proof.Machine
end

