-- ==== Sys2Proof/Machine/KeySchedule.lean ====
section
/-! DEFINITION. Family 2 (spec/41_key_schedule.md): RotWord, SubWord, one word of the schedule, the whole schedule,
and the round key of a round. Pure functions on byte sequences. -/

namespace Sys2Proof

/-- Cyclic left rotation by one byte, toward the first byte (R75). -/
def rotWord (t : Word) : Word := #v[t[1], t[2], t[3], t[0]]

/-- The S-box on each byte of a word (R76). -/
def subWord (t : Word) : Word := #v[sbox t[0], sbox t[1], sbox t[2], sbox t[3]]

/-- Bytewise exclusive-or of two words (R71). -/
def xorWord (a b : Word) : Word := #v[a[0] ^^^ b[0], a[1] ^^^ b[1], a[2] ^^^ b[2], a[3] ^^^ b[3]]

/-- The round constant added to the first byte only (R77). -/
def addConstant (c : Byte) (t : Word) : Word := #v[t[0] ^^^ c, t[1], t[2], t[3]]

/-- Word `i` of the schedule from the word before, `p`, and the word four back, `q` (R77). -/
def kexpWord (i : Nat) (p q : Word) : Word :=
  if i % 4 = 0 then xorWord (addConstant (rcon (i / 4)) (subWord (rotWord p))) q
  else xorWord p q

/-- Byte `a` of a schedule; every offset a rule forms is below 176 (R33). -/
def Schedule.byteAt (r : Schedule) (a : Nat) : Byte := r.toList.getD a 0

/-- Word `i` of a schedule (R13). -/
def Schedule.wordAt (r : Schedule) (i : Nat) : Word :=
  #v[Schedule.byteAt r (4 * i), Schedule.byteAt r (4 * i + 1), Schedule.byteAt r (4 * i + 2),
    Schedule.byteAt r (4 * i + 3)]

/-- A schedule with word `i` replaced. -/
def Schedule.setWord (r : Schedule) (i : Nat) (w : Word) : Schedule :=
  Vector.ofFn fun a : Fin 176 => if a.val / 4 = i then w.toList.getD (a.val % 4) 0 else r[a.val]

/-- A schedule whose group 0 is the key, the rest not computed yet (R78, first loop). -/
def keyGroup (k : Block) : Schedule :=
  Vector.ofFn fun a : Fin 176 => k.toList.getD a.val 0

/-- The schedule after the first `n` words have been computed, in ascending order from word 4 (R78, second loop). -/
def expandTo (k : Block) : Nat → Schedule
  | 0 => keyGroup k
  | n + 1 =>
    let r := expandTo k n
    Schedule.setWord r (n + 4) (kexpWord (n + 4) (Schedule.wordAt r (n + 3)) (Schedule.wordAt r n))

/-- `ExpandKey(K)` (R78): words 4 to 43. -/
def expandKey (k : Block) : Schedule := expandTo k 40

/-- `RoundKey(R, g)`, the 16 bytes of group `g` (R79). -/
def roundKey (r : Schedule) (g : Nat) : Block :=
  Vector.ofFn fun n : Fin 16 => Schedule.byteAt r (16 * g + n.val)

end Sys2Proof
end

