-- ==== Sys2Proof/Machine/Round.lean ====
section
/-! DEFINITION. Family 3 (spec/42_round_primitives.md) and the function of family 5 (spec/44_sequencer.md R106): the
round primitives, the composite rounds, and the cipher. Each reads the whole old state and gives the whole new one
(R8, D24). -/

namespace Sys2Proof

/-- The byte at row `r`, column `c` of a state (R7, R11). -/
def Block.at (s : Block) (r c : Nat) : Byte := s.toList.getD (4 * c + r) 0

/-- Bytewise exclusive-or of a state and a round key (R71, R85). -/
def xorBlock (s k : Block) : Block := Vector.ofFn fun n : Fin 16 => s[n.val] ^^^ k[n.val]

/-- `AddRoundKey(g, S, R)` (R85). -/
def addRoundKey (g : Nat) (s : Block) (r : Schedule) : Block := xorBlock s (roundKey r g)

/-- `SubBytes(S)` (R86). -/
def subBytes (s : Block) : Block := Vector.ofFn fun n : Fin 16 => sbox s[n.val]

/-- `ShiftRows(S)` (R87): row `r` rotates left by `r` columns. -/
def shiftRows (s : Block) : Block :=
  Vector.ofFn fun n : Fin 16 => Block.at s (n.val % 4) ((n.val / 4 + n.val % 4) % 4)

/-- One column of MixColumns (R88): the matrix applied to the column vector. -/
def mixColumn (a0 a1 a2 a3 : Byte) : Word :=
  #v[mul2 a0 ^^^ mul3 a1 ^^^ mul1 a2 ^^^ mul1 a3,
     mul1 a0 ^^^ mul2 a1 ^^^ mul3 a2 ^^^ mul1 a3,
     mul1 a0 ^^^ mul1 a1 ^^^ mul2 a2 ^^^ mul3 a3,
     mul3 a0 ^^^ mul1 a1 ^^^ mul1 a2 ^^^ mul2 a3]

/-- A state from what is done to each of its columns. -/
def mapColumns (f : Byte → Byte → Byte → Byte → Word) (s : Block) : Block :=
  let c0 := f s[0] s[1] s[2] s[3]
  let c1 := f s[4] s[5] s[6] s[7]
  let c2 := f s[8] s[9] s[10] s[11]
  let c3 := f s[12] s[13] s[14] s[15]
  #v[c0[0], c0[1], c0[2], c0[3], c1[0], c1[1], c1[2], c1[3],
     c2[0], c2[1], c2[2], c2[3], c3[0], c3[1], c3[2], c3[3]]

/-- `MixColumns(S)` (R88). -/
def mixColumns (s : Block) : Block := mapColumns mixColumn s

/-- One column of the inverse matrix (R72): no operation of the core, defined so that checks can be stated. -/
def invMixColumn (a0 a1 a2 a3 : Byte) : Word :=
  #v[gmul a0 0x0e ^^^ gmul a1 0x0b ^^^ gmul a2 0x0d ^^^ gmul a3 0x09,
     gmul a0 0x09 ^^^ gmul a1 0x0e ^^^ gmul a2 0x0b ^^^ gmul a3 0x0d,
     gmul a0 0x0d ^^^ gmul a1 0x09 ^^^ gmul a2 0x0e ^^^ gmul a3 0x0b,
     gmul a0 0x0b ^^^ gmul a1 0x0d ^^^ gmul a2 0x09 ^^^ gmul a3 0x0e]

/-- The mathematical inverse of MixColumns (R72), for checks only. -/
def invMixColumns (s : Block) : Block := mapColumns invMixColumn s

/-- A full round with its round key already taken from the schedule (R90, R108). -/
def fullRoundWith (s k : Block) : Block := xorBlock (mixColumns (shiftRows (subBytes s))) k

/-- The final round, without MixColumns, with its round key already taken from the schedule (R90, R109). -/
def finalRoundWith (s k : Block) : Block := xorBlock (shiftRows (subBytes s)) k

/-- `FullRound(k, S, R)` (R90). -/
def fullRound (k : Nat) (s : Block) (r : Schedule) : Block := fullRoundWith s (roundKey r k)

/-- `FinalRound(S, R)` (R90). -/
def finalRound (s : Block) (r : Schedule) : Block := finalRoundWith s (roundKey r 10)

/-- The state after round `k`, counted from the addition of round key 0 (R105, R106). -/
def roundsTo (s : Block) (r : Schedule) : Nat → Block
  | 0 => addRoundKey 0 s r
  | k + 1 => fullRound (k + 1) (roundsTo s r k) r

/-- `Cipher(S0, R)` (R106): the initial key addition, nine full rounds, the final round. -/
def cipher (s : Block) (r : Schedule) : Block := finalRound (roundsTo s r 9) r

end Sys2Proof
end

