-- ==== Sys2Proof/Machine/Operands.lean ====
section
/-! DEFINITION. Family 4 (spec/43_marshaller.md) and the operand formats of spec/30_encoding.md R52, R55: how the bits of
a packed value become the bytes the datapath works on, and back; the host's convention (R100, R101); and the
function of a whole block (R125). -/

namespace Sys2Proof

/-- Byte `i` of a packed value, the most significant first: `V[127-8i : 120-8i]` (R34). -/
def ext (v : Packed) (i : Nat) : Byte := v.extractLsb' (8 * (15 - i)) 8

/-- The conventional index of packed byte `i`: word order reversed, order inside a word kept (R35, R95). It is its own
inverse (R98). -/
def swapIndex (i : Nat) : Nat := 4 * (3 - i / 4) + i % 4

/-- `Unpack(V)` (R95): conventional byte `swapIndex i` is packed byte `i`. -/
def unpack (v : Packed) : Block := Vector.ofFn fun n : Fin 16 => ext v (swapIndex n.val)

/-- The packed value whose packed byte `i`, the one `ext` gives, is `byte i`: a big-endian array of sixteen bytes (R34, R102). -/
def ofBytes (byte : Nat → Byte) : Packed :=
  byte 0 ++ byte 1 ++ byte 2 ++ byte 3 ++ byte 4 ++ byte 5 ++ byte 6 ++ byte 7 ++
    byte 8 ++ byte 9 ++ byte 10 ++ byte 11 ++ byte 12 ++ byte 13 ++ byte 14 ++ byte 15

/-- `Pack(S)` (R96), in its form on `ext`: packed byte `i` is conventional byte `swapIndex i`. Counted from the least significant end
that is byte position `15 - i`, the `p` of R96's pseudocode (C1). -/
def pack (s : Block) : Packed := ofBytes fun i => s.toList.getD (swapIndex i) 0

/-- `UnpackKey(V)` (R97): word `w` of the extracted bytes goes to output word `3 - w`. Kept apart from `unpack`, as the
document asks (R99). -/
def unpackKey (v : Packed) : Block :=
  Vector.ofFn fun n : Fin 16 => ext v (4 * (3 - n.val / 4) + n.val % 4)

/-- `ToWire(B)`, the packed value with which the core sees the conventional bytes `B` (R100). -/
def toWire (b : Block) : Packed := pack b

/-- `FromWire(V)`, the conventional bytes of a packed value (R100). -/
def fromWire (v : Packed) : Block := unpack v

/-- `ToWire` for a host that holds a block as four 32-bit integers (R101): `u3 ++ u2 ++ u1 ++ u0`. -/
def toWireWords (u0 u1 u2 u3 : BitVec 32) : Packed := u3 ++ u2 ++ u1 ++ u0

/-- The 32-bit integer `B[4k] ++ B[4k+1] ++ B[4k+2] ++ B[4k+3]` of a block (R101). -/
def blockWord (b : Block) (k : Nat) : BitVec 32 :=
  b.toList.getD (4 * k) 0 ++ b.toList.getD (4 * k + 1) 0 ++ b.toList.getD (4 * k + 2) 0 ++
    b.toList.getD (4 * k + 3) 0

/-- A block from a byte sequence of length 16 (R127). -/
def blockOfBytes (bs : List Byte) : Block := Vector.ofFn fun n : Fin 16 => bs.getD n.val 0

/-- `EncryptBlock(k, v)` (R125). -/
def encryptBlock (k v : Packed) : Packed := pack (cipher (unpack v) (expandKey (unpackKey k)))

end Sys2Proof
end

