-- ==== Sys2Proof/Machine/Ops.lean ====
section
/-! DEFINITION. The named operations over the store and the registers: MemRead and MemWrite (R8), the writes of each
rule taken together (R8), raising an error (R143), the reset event (R155). -/

namespace Sys2Proof.Machine

/-- What an offset of `RK` that is not listed reads as: it holds no value (R155, D28, U2; DESIGN CHOICE, log entry 3). -/
def Memory.unlisted (_a : Nat) : Option Byte := none

/-- The byte at offset `a`. -/
def Memory.read : Memory → Nat → Option Byte
  | [], a => Memory.unlisted a
  | (k, v) :: m, a => if k = a then some v else Memory.read m a

/-- Write one byte, keeping the offsets strictly rising. -/
def Memory.write : Memory → Nat → Byte → Memory
  | [], a, b => [(a, b)]
  | (k, v) :: m, a, b =>
    if a < k then (a, b) :: (k, v) :: m
    else if a = k then (a, b) :: m
    else (k, v) :: Memory.write m a b

/-- Write a byte sequence at consecutive offsets, the first at `a` (R36). -/
def Memory.writeList (m : Memory) (a : Nat) : List Byte → Memory
  | [] => m
  | b :: bs => Memory.writeList (Memory.write m a b) (a + 1) bs

/-- The canonical form above a bound: offsets strictly rising from `lo`, all of them in the space (R30). No listed byte
equals what an unlisted offset reads as, since that is no value. -/
def Memory.wfFrom (lo : Nat) : Memory → Bool
  | [] => true
  | (k, _) :: m => decide (lo ≤ k ∧ k < Config.NRKBYTES) && Memory.wfFrom (k + 1) m

/-- The canonical form of `RK`. -/
def Memory.wf (m : Memory) : Bool := Memory.wfFrom 0 m

/-- The three address spaces (R30). -/
inductive Space where
  | sbox
  | rcon
  | rk
deriving DecidableEq, Repr

/-- The size of an address space; its offsets start at 0 (R30). -/
def Space.size : Space → Nat
  | .sbox => 256
  | .rcon => 11
  | .rk => Config.NRKBYTES

/-- One byte of an address space, if there is one there. -/
def readByte (s : State) : Space → Nat → Option Byte
  | .sbox, a => sboxTable[a]?
  | .rcon, a => rconTable[a]?
  | .rk, a => Memory.read s.RK a

/-- `MemRead(space, addr, n)` (R8), lowest offset first. A byte of `RK` without a value faults (D28). -/
def memRead (s : State) (sp : Space) (addr n : Nat) : Except Fault (Vector Byte n) :=
  if addr + n ≤ sp.size then
    if (List.range n).all fun i => (readByte s sp (addr + i)).isSome then
      .ok (Vector.ofFn fun i : Fin n => (readByte s sp (addr + i.val)).getD 0)
    else .error .unwrittenRk
  else .error .outsideSpace

/-- `MemWrite(RK, addr, n, v)` (R8): what `RK` holds afterwards. `RK` is the only writable space. -/
def memWrite (s : State) (addr n : Nat) (v : Vector Byte n) : Except Fault Memory :=
  if addr + n ≤ Config.NRKBYTES then .ok (Memory.writeList s.RK addr v.toList)
  else .error .outsideSpace

/-- Go on after a step that answers a next state; a fault or a refusal stays what it is. -/
def andThen (o : Out) (f : State → Out) : Out :=
  match o with
  | .next s => f s
  | .fault r => .fault r
  | .refused r => .refused r

/-- Give a value back to the caller: no register, flag or store changes (R91; DESIGN CHOICE, log entry 9). -/
def State.setResult (s : State) (r : Result) : State := { s with result := r }

/-- Leave `rest` as the coming turns. -/
def State.setHost (s : State) (rest : List HostEvent) : State := { s with host := rest }

/-- The host takes the value of `dout` (R124): reading has no side effect on the core. -/
def State.recordDout (s : State) : State := { s with received := s.received ++ [s.dout] }

/-- RAISE AN ERROR (R143): the one thing recorded, everything else unchanged; nothing is saved, control goes nowhere,
no mode changes. `NoKey` and `ReservedCommand` set their sticky flags (R138, R139); the two length errors are returned to
the caller (R136, R137). There is no return from an error: a flag stays until reset and later commands work (R144). -/
def State.raise (s : State) (e : ErrorCause) : State :=
  match e with
  | .noKey => { s with errNokey := true }
  | .reservedCommand => { s with errBadcmd := true }
  | .invalidKeyLength => { s with result := .error .invalidKeyLength }
  | .invalidBlockLength => { s with result := .error .invalidBlockLength }

/-- The writes of an accepted `LOADKEY` (R122), `rk` being `RK` with the key in group 0. -/
def State.startExpansion (s : State) (rk : Memory) : State :=
  { s with RK := rk, keyValid := false, doutValid := false, widx := 4, phase := .keyexp }

/-- The writes of a key-expansion step before the last (R111). -/
def State.nextWord (s : State) (rk : Memory) : State := { s with RK := rk, widx := s.widx + 1 }

/-- The writes of the last key-expansion step (R111). What `widx` holds afterwards is unspecified (R16): a free value
(DESIGN CHOICE, log entry 7). -/
def State.finishExpansion (s : State) (rk : Memory) : State :=
  { s with RK := rk, keyValid := true, phase := .idle, widx := Config.freeWidx s.freeCount,
           freeCount := s.freeCount + 1 }

/-- The writes of an accepted `ENCRYPT` with a complete schedule (R123). -/
def State.startBlock (s : State) (b : Block) : State :=
  { s with S := b, doutValid := false, phase := .initial }

/-- The writes of a step that adds a round key (R107 to R109): the new state, and the round now completed. -/
def State.enterRound (s : State) (b : Block) (r : BitVec 4) : State :=
  { s with S := b, round := r, phase := .round }

/-- The writes of the finishing step (R110). `S` and `round` are left as they are. -/
def State.finishBlock (s : State) (v : Packed) : State :=
  { s with dout := v, doutValid := true, phase := .done }

/-- THE RESET EVENT (R155, R156), whatever the core was doing. `S`, `round`, `widx`, `dout` are unspecified afterwards: free
values (DESIGN CHOICE, log entry 1); `RK` holds no value (DESIGN CHOICE, log entry 3). The host's own fields are not the
core's (DESIGN CHOICE, log entry 22). -/
def State.takeReset (s : State) : State :=
  { s with
    S := Config.freeS s.freeCount
    RK := []
    phase := .idle
    round := Config.freeRound s.freeCount
    widx := Config.freeWidx s.freeCount
    keyValid := false
    dout := Config.freeDout s.freeCount
    doutValid := false
    errNokey := false
    errBadcmd := false
    freeCount := s.freeCount + 1 }

end Sys2Proof.Machine
end

