-- ==== Sys2Proof/Machine/Commands.lean ====
section
/-! DEFINITION. The host commands of family 6 (spec/45_commands_batch.md R120 to R123, spec/60_exceptions.md R138, R139). A
command is accepted only while the core is ready; presented while it is busy it has no effect, is not queued and is not
remembered (R120; DESIGN CHOICE, log entry 6). -/

namespace Sys2Proof.Machine

/-- Acceptance (R120): the command's effect while the core is ready, no effect while it is busy. -/
def accept (s : State) (effect : Out) : Out := if s.busy then .next s else effect

/-- `NOP` (R121): writes nothing. -/
def execNop (_din : Packed) (s : State) : Out := accept s (.next s)

/-- `LOADKEY` (R122). -/
def execLoadkey (din : Packed) (s : State) : Out :=
  accept s <|
    match memWrite s 0 16 (unpackKey din) with
    | .ok rk => .next (s.startExpansion rk)
    | .error f => .fault f

/-- `ENCRYPT` (R123); without a complete schedule it raises `NoKey` and does nothing else (R138). -/
def execEncrypt (din : Packed) (s : State) : Out :=
  accept s <| if s.keyValid then .next (s.startBlock (unpack din)) else .next (s.raise .noKey)

/-- `RSVD`, the reserved code (R53, R139). -/
def execRsvd (_din : Packed) (s : State) : Out := accept s (.next (s.raise .reservedCommand))

end Sys2Proof.Machine
end

