-- ==== Sys2Proof/WellFormed.lean ====
section
/-! DEFINITION. Which terms of Instr are well formed: the operand ranges of the rules (R68, R77, R85). Every value of
every other operand is legal (R52, R53); the byte lengths that `EncryptBlocks` checks are errors it reports, not
ill-formed terms (R127, R136, R137). -/

namespace Sys2Proof

/-- The operands are in the ranges the rules give. -/
def Instr.wellFormed : Instr → Bool
  | .nop _ => true
  | .loadkey _ => true
  | .encrypt _ => true
  | .rsvd _ => true
  | .kxStep => true
  | .rndInit => true
  | .rndFull => true
  | .rndFinal => true
  | .rndDone => true
  | .sbox _ => true
  | .rcon j => decide (1 ≤ j ∧ j ≤ 10)
  | .xtime _ => true
  | .rotword _ => true
  | .subword _ => true
  | .kexpword i _ _ => decide (4 ≤ i ∧ i ≤ 43)
  | .expandkey _ => true
  | .addroundkey g _ _ => decide (g ≤ 10)
  | .subbytes _ => true
  | .shiftrows _ => true
  | .mixcolumns _ => true
  | .unpack _ => true
  | .pack _ => true
  | .unpackkey _ => true
  | .cipher _ _ => true
  | .encryptblockshw _ _ => true
  | .encryptblocks _ _ => true

end Sys2Proof
end

