-- ==== Sys2Proof/Decode.lean ====
section
/-! DEFINITION. The two decoders of spec/30_encoding.md and the encoder: command words (R50, R51), and the sequencer
registers that select the core's own step (R56). Every 130-bit word is a command; what is no command word is
rejected by name. -/

namespace Sys2Proof

/-- Why a run of bits is no command word. -/
inductive DecodeError where
  /-- The row has no bits: a sequencer step, a function or a host procedure has no encoding (R56, R57). -/
  | noEncoding
  /-- A bit above bit 129 is set: there is one command length, 130 bits (R50, R58). -/
  | longerThanACommand
deriving DecidableEq, Repr

/-- The field `cw[129:128]` (R50). -/
def cmdField (cw : CommandWord) : BitVec 2 := cw.extractLsb' 128 2

/-- The field `cw[127:0]` (R50). -/
def dinField (cw : CommandWord) : Packed := cw.extractLsb' 0 128

/-- The command word of `cmd` and `din`, `cmd` the more significant part (R50). -/
def commandWord (cmd : BitVec 2) (din : Packed) : CommandWord := cmd ++ din

/-- The command a word stands for (R51); the reserved code is an operation of its own (R53). -/
def decode (cw : CommandWord) : Instr :=
  if cmdField cw = 0b00#2 then .nop (dinField cw)
  else if cmdField cw = 0b01#2 then .loadkey (dinField cw)
  else if cmdField cw = 0b10#2 then .encrypt (dinField cw)
  else .rsvd (dinField cw)

/-- The step the sequencer registers select, if they select one (R56). In `IDLE` and `DONE` there is none (R113). -/
def decodeSeq (phase : Phase) (round : BitVec 4) (widx : BitVec 6) : Option Instr :=
  match phase with
  | .idle => none
  | .keyexp => if 4 ≤ widx.toNat ∧ widx.toNat ≤ 43 then some .kxStep else none
  | .initial => some .rndInit
  | .round =>
    if round.toNat ≤ 8 then some .rndFull
    else if round.toNat = 9 then some .rndFinal
    else if round.toNat = 10 then some .rndDone
    else none
  | .done => none

/-- The word of a host command (R50, R51); nothing else has an encoding (R56, R57). -/
def encode : Instr → Option CommandWord
  | .nop din => some (commandWord 0b00#2 din)
  | .loadkey din => some (commandWord 0b01#2 din)
  | .encrypt din => some (commandWord 0b10#2 din)
  | .rsvd din => some (commandWord 0b11#2 din)
  | .kxStep => none
  | .rndInit => none
  | .rndFull => none
  | .rndFinal => none
  | .rndDone => none
  | .sbox _ => none
  | .rcon _ => none
  | .xtime _ => none
  | .rotword _ => none
  | .subword _ => none
  | .kexpword _ _ _ => none
  | .expandkey _ => none
  | .addroundkey _ _ _ => none
  | .subbytes _ => none
  | .shiftrows _ => none
  | .mixcolumns _ => none
  | .unpack _ => none
  | .pack _ => none
  | .unpackkey _ => none
  | .cipher _ _ => none
  | .encryptblockshw _ _ => none
  | .encryptblocks _ _ => none

/-- The command word in `nbits` bits of value `w`, bit 0 the least significant; the bits the table does not give are
zero (DESIGN CHOICE, log entry 12). -/
def tableWord (nbits w : Nat) : Except DecodeError CommandWord :=
  if nbits = 0 then .error .noEncoding
  else if w % 2 ^ nbits < 2 ^ 130 then .ok (BitVec.ofNat 130 (w % 2 ^ nbits))
  else .error .longerThanACommand

/-- The instruction in `nbits` bits of value `w`, or why there is none. -/
def decodeBits (nbits w : Nat) : Except DecodeError Instr :=
  match tableWord nbits w with
  | .ok cw => .ok (decode cw)
  | .error e => .error e

/-- The instruction in `nbits` bits of value `w`, numbered as spec/opcode_table.json numbers them. -/
def decodeTableWord (nbits w : Nat) : Option Instr :=
  match decodeBits nbits w with
  | .ok i => some i
  | .error _ => none

end Sys2Proof
end

