-- ==== Sys2Proof/Machine/Sequencer.lean ====
section
/-! DEFINITION. Family 5 (spec/44_sequencer.md): the core's own steps. Each has its precondition, the sequencer state that
selects it (R56); elsewhere the step is not there to take, and its meaning refuses (U7; DESIGN CHOICE, log entry 13). -/

namespace Sys2Proof.Machine

/-- The step the registers of a state select (R56). -/
def State.selected (s : State) : Option Instr := decodeSeq s.phase s.round s.widx

/-- `KX.STEP` (R111). -/
def execKxStep (s : State) : Out :=
  if s.selected = some .kxStep then
    match memRead s .rk (4 * (s.widx.toNat - 1)) 4, memRead s .rk (4 * (s.widx.toNat - 4)) 4 with
    | .ok p, .ok q =>
      match memWrite s (4 * s.widx.toNat) 4 (kexpWord s.widx.toNat p q) with
      | .ok rk => if s.widx.toNat < 43 then .next (s.nextWord rk) else .next (s.finishExpansion rk)
      | .error f => .fault f
    | .error f, _ => .fault f
    | .ok _, .error f => .fault f
  else .refused .stepNotSelected

/-- Read the round key of round `g` from `RK` and go on with it. -/
def withRoundKey (s : State) (g : Nat) (f : Block → State) : Out :=
  match memRead s .rk (16 * g) 16 with
  | .ok k => .next (f k)
  | .error e => .fault e

/-- `RND.INIT` (R107). -/
def execRndInit (s : State) : Out :=
  if s.selected = some .rndInit then withRoundKey s 0 fun k => s.enterRound (xorBlock s.S k) 0
  else .refused .stepNotSelected

/-- `RND.FULL` (R108): the round key is that of the round being completed. -/
def execRndFull (s : State) : Out :=
  if s.selected = some .rndFull then
    withRoundKey s (s.round.toNat + 1) fun k => s.enterRound (fullRoundWith s.S k) (s.round + 1)
  else .refused .stepNotSelected

/-- `RND.FINAL` (R109). -/
def execRndFinal (s : State) : Out :=
  if s.selected = some .rndFinal then withRoundKey s 10 fun k => s.enterRound (finalRoundWith s.S k) 10
  else .refused .stepNotSelected

/-- `RND.DONE` (R110). -/
def execRndDone (s : State) : Out :=
  if s.selected = some .rndDone then .next (s.finishBlock (pack s.S)) else .refused .stepNotSelected

/-- The meaning of a selected sequencer step, for the host procedures, which run the core between their commands. -/
def execSeq (i : Instr) (s : State) : Out :=
  match i with
  | .kxStep => execKxStep s
  | .rndInit => execRndInit s
  | .rndFull => execRndFull s
  | .rndFinal => execRndFinal s
  | .rndDone => execRndDone s
  | _ => .refused .noStepSelected

/-- The core's turn, the meaning of its step given (R9, R113): it takes the step its registers select; when it is not busy
it has none and stays; a busy state no row covers is refused (U7). -/
def coreTurn (run : Instr → State → Out) (s : State) : Out :=
  match s.selected with
  | some i => run i s
  | none => if s.busy then .refused .noStepSelected else .next s

end Sys2Proof.Machine
end

