-- ==== Sys2Proof/Machine/Batch.lean ====
section
/-! DEFINITION. The host procedures of family 6 (spec/45_commands_batch.md R126, R127): the commands the host issues, with the
core's own steps between them, as one fused operation (R114; DEDUCED, log entry 10). -/

namespace Sys2Proof.Machine

/-- Wait until `busy = 0`, the core taking its steps (R126), at most `n` of them (R113). -/
def waitReady : Nat → State → Out
  | 0, s => if s.busy then .refused .stillBusy else .next s
  | n + 1, s => if s.busy then andThen (coreTurn execSeq s) (waitReady n) else .next s

/-- The most core steps a busy core takes before it is ready (R112, R113). -/
def maxSteps : Nat := 40

/-- The loop of `EncryptBlocksHW` (R126), `c` the ciphertexts so far and `ret` what is returned of them at the end. -/
def batchLoop (ret : List Packed → Result) : List Packed → List Packed → State → Out
  | [], c, s => .next (s.setResult (ret c))
  | v :: vs, c, s =>
    andThen (execEncrypt v s) fun s1 =>
      andThen (waitReady maxSteps s1) fun s2 =>
        if s2.doutValid then batchLoop ret vs (c ++ [s2.dout]) s2 else .refused .resultNeverValid

/-- Load the key, then encrypt each block in order (R126). The run ends with the core ready, for no blocks too (R60,
R165; DEDUCED, log entry 10). -/
def runBatch (k : Packed) (vs : List Packed) (ret : List Packed → Result) (s : State) : Out :=
  andThen (waitReady maxSteps s) fun s1 =>
    andThen (execLoadkey k s1) fun s2 =>
      andThen (waitReady maxSteps s2) fun s3 => batchLoop ret vs [] s3

/-- `EncryptBlocksHW` (R126). -/
def execEncryptblockshw (k : Packed) (vs : List Packed) (s : State) : Out := runBatch k vs .packedBlocks s

/-- `EncryptBlocks` (R127): the key length is checked first, then the block lengths, all before any command is issued
(R136, R137, R142; DEDUCED, log entry 16). -/
def execEncryptblocks (key : List Byte) (blocks : List (List Byte)) (s : State) : Out :=
  if key.length ≠ 16 then .next (s.raise .invalidKeyLength)
  else if blocks.any fun b => b.length != 16 then .next (s.raise .invalidBlockLength)
  else
    runBatch (toWire (blockOfBytes key)) (blocks.map fun b => toWire (blockOfBytes b))
      (fun c => .byteBlocks (c.map fromWire)) s

end Sys2Proof.Machine
end

