-- ==== Sys2Proof/Machine/Functions.lean ====
section
/-! DEFINITION. The meanings of the FUNC rows of the opcode table (R57): each gives its value back and changes no
register, flag or store (R91). -/

namespace Sys2Proof.Machine

/-- `SBOX` (R66). -/
def execSbox (b : Byte) (s : State) : Out := .next (s.setResult (.byte (sbox b)))

/-- `RCON` (R68), `MemRead(RCON, j, 1)`. Entry 0 is a free value (DESIGN CHOICE, log entry 8); the ROM ends at entry 10 (R32). -/
def execRcon (j : Nat) (s : State) : Out :=
  match memRead s .rcon j 1 with
  | .ok v => .next (s.setResult (.byte v[0]))
  | .error f => .fault f

/-- `XTIME` (R69). -/
def execXtime (b : Byte) (s : State) : Out := .next (s.setResult (.byte (xtime b)))

/-- `ROTWORD` (R75). -/
def execRotword (t : Word) (s : State) : Out := .next (s.setResult (.word (rotWord t)))

/-- `SUBWORD` (R76). -/
def execSubword (t : Word) (s : State) : Out := .next (s.setResult (.word (subWord t)))

/-- `KEXPWORD` (R77), for `i` in 4..43. -/
def execKexpword (i : Nat) (p q : Word) (s : State) : Out :=
  if 4 ≤ i ∧ i ≤ 43 then .next (s.setResult (.word (kexpWord i p q))) else .refused .noSuchScheduleWord

/-- `EXPANDKEY` (R78). -/
def execExpandkey (k : Block) (s : State) : Out := .next (s.setResult (.schedule (expandKey k)))

/-- `ADDROUNDKEY` (R85), for `g` in 0..10: a larger `g` forms offsets outside the schedule (R33). -/
def execAddroundkey (g : Nat) (st : Block) (r : Schedule) (s : State) : Out :=
  if g ≤ 10 then .next (s.setResult (.block (addRoundKey g st r))) else .fault .outsideSpace

/-- `SUBBYTES` (R86). -/
def execSubbytes (st : Block) (s : State) : Out := .next (s.setResult (.block (subBytes st)))

/-- `SHIFTROWS` (R87). -/
def execShiftrows (st : Block) (s : State) : Out := .next (s.setResult (.block (shiftRows st)))

/-- `MIXCOLUMNS` (R88). -/
def execMixcolumns (st : Block) (s : State) : Out := .next (s.setResult (.block (mixColumns st)))

/-- `UNPACK` (R95). -/
def execUnpack (v : Packed) (s : State) : Out := .next (s.setResult (.block (unpack v)))

/-- `PACK` (R96). -/
def execPack (st : Block) (s : State) : Out := .next (s.setResult (.packed (pack st)))

/-- `UNPACKKEY` (R97). -/
def execUnpackkey (v : Packed) (s : State) : Out := .next (s.setResult (.block (unpackKey v)))

/-- `CIPHER` (R106). -/
def execCipher (st : Block) (r : Schedule) (s : State) : Out := .next (s.setResult (.block (cipher st r)))

end Sys2Proof.Machine
end

