-- ==== Sys2Proof/Machine/Dispatch.lean ====
section
/-! DEFINITION. One arm per operation of spec/opcode_table.json, in the table's order. -/

namespace Sys2Proof.Machine

def exec (i : Instr) (s : State) : Host.Outcome State Fault Refusal :=
  match i with
  | .nop din => Sys2Proof.Machine.execNop din s
  | .loadkey din => Sys2Proof.Machine.execLoadkey din s
  | .encrypt din => Sys2Proof.Machine.execEncrypt din s
  | .rsvd din => Sys2Proof.Machine.execRsvd din s
  | .kxStep => Sys2Proof.Machine.execKxStep s
  | .rndInit => Sys2Proof.Machine.execRndInit s
  | .rndFull => Sys2Proof.Machine.execRndFull s
  | .rndFinal => Sys2Proof.Machine.execRndFinal s
  | .rndDone => Sys2Proof.Machine.execRndDone s
  | .sbox b => Sys2Proof.Machine.execSbox b s
  | .rcon j => Sys2Proof.Machine.execRcon j s
  | .xtime b => Sys2Proof.Machine.execXtime b s
  | .rotword t => Sys2Proof.Machine.execRotword t s
  | .subword t => Sys2Proof.Machine.execSubword t s
  | .kexpword n p q => Sys2Proof.Machine.execKexpword n p q s
  | .expandkey k => Sys2Proof.Machine.execExpandkey k s
  | .addroundkey g st r => Sys2Proof.Machine.execAddroundkey g st r s
  | .subbytes st => Sys2Proof.Machine.execSubbytes st s
  | .shiftrows st => Sys2Proof.Machine.execShiftrows st s
  | .mixcolumns st => Sys2Proof.Machine.execMixcolumns st s
  | .unpack v => Sys2Proof.Machine.execUnpack v s
  | .pack st => Sys2Proof.Machine.execPack st s
  | .unpackkey v => Sys2Proof.Machine.execUnpackkey v s
  | .cipher st r => Sys2Proof.Machine.execCipher st r s
  | .encryptblockshw k vs => Sys2Proof.Machine.execEncryptblockshw k vs s
  | .encryptblocks key blocks => Sys2Proof.Machine.execEncryptblocks key blocks s

end Sys2Proof.Machine
end

