-- ==== Sys2Proof/Machine/Step.lean ====
section
/-! DEFINITION. One step: the turn that stands first in the host's list, or the core's turn when the list is empty (R9;
DESIGN CHOICE, log entry 5). -/

namespace Sys2Proof.Machine

/-- One turn of the machine. Reset beats everything (R142, R155). While the core is busy it takes its own step and no command
is accepted (R120); while it is ready it takes the command presented to it, or stays (R113). -/
def step (s : State) : Host.Outcome State Fault Refusal :=
  match s.host with
  | [] => coreTurn exec s
  | .core :: rest => coreTurn exec (s.setHost rest)
  | .present cw :: rest => exec (decode cw) (s.setHost rest)
  | .hold cw :: rest => if s.busy then coreTurn exec s else exec (decode cw) (s.setHost rest)
  | .wait :: rest => if s.busy then coreTurn exec s else .next (s.setHost rest)
  | .readDout :: rest => if s.doutValid then .next (s.recordDout.setHost rest) else coreTurn exec s
  | .rst :: rest => .next (s.takeReset.setHost rest)
  | .batchHw k vs :: rest => exec (.encryptblockshw k vs) (s.setHost rest)
  | .batch key blocks :: rest => exec (.encryptblocks key blocks) (s.setHost rest)

/-- The state in which the next step runs the command word of `nbits` bits `w`: the host presents it now, and the core is
ready to accept it (DESIGN CHOICE, log entry 11). Bits that are no command word change nothing (DESIGN CHOICE, log entry 12). -/
def State.withFetchWord (s : State) (nbits w : Nat) : State :=
  match tableWord nbits w with
  | .ok cw => { s with host := .present cw :: s.host, phase := if s.busy then .idle else s.phase }
  | .error _ => s

end Sys2Proof.Machine
end

