-- ==== Sys2Proof/Machine/Assembler.lean ====
section
/-! DEFINITION. The textual syntax and the pseudo-commands of spec/30_encoding.md section 7 (R59, R60): one line of text, what it
stands for, and the turns of the host it expands to. Notation only (decision D23; DESIGN CHOICE, log entry 20). -/

namespace Sys2Proof.Machine

/-- A line of the syntax (R59) or a pseudo-command (R60). -/
inductive Line where
  /-- Nothing but a comment. -/
  | blank
  | nop
  | loadkey (v : Packed)
  | encrypt (v : Packed)
  | rsvd
  /-- `WAIT`, no command and no encoding. -/
  | wait
  /-- `LOADKEY.B h`, a key as conventional bytes. -/
  | loadkeyB (k : Block)
  /-- `ENCRYPT.B h`, a block as conventional bytes. -/
  | encryptB (b : Block)
  /-- `RESULT.B`, no command. -/
  | resultB
  /-- `ENCRYPTBLOCKS k, v0, ...`. -/
  | encryptblocks (k : Packed) (vs : List Packed)
deriving DecidableEq, Repr

/-- The command a line stands for, if it is one command; `RSVD` is the reserved code with `din = 0` (R59, R60). -/
def Line.instr : Line → Option Instr
  | .blank => none
  | .nop => some (.nop 0)
  | .loadkey v => some (.loadkey v)
  | .encrypt v => some (.encrypt v)
  | .rsvd => some (.rsvd 0)
  | .wait => none
  | .loadkeyB k => some (.loadkey (toWire k))
  | .encryptB b => some (.encrypt (toWire b))
  | .resultB => none
  | .encryptblocks _ _ => none

/-- The encoding of a line (R59), where it has one. -/
def Line.encoding (l : Line) : Option CommandWord := l.instr.bind encode

/-- The turn in which the host issues a command: it holds the word until it is accepted (R120, R159). -/
def issue (i : Instr) : List HostEvent :=
  match encode i with
  | some cw => [.hold cw]
  | none => []

/-- The turns of the host a line stands for (R59, R60). -/
def Line.turns : Line → List HostEvent
  | .blank => []
  | .nop => issue (.nop 0)
  | .loadkey v => issue (.loadkey v)
  | .encrypt v => issue (.encrypt v)
  | .rsvd => issue (.rsvd 0)
  | .wait => [.wait]
  | .loadkeyB k => issue (.loadkey (toWire k))
  | .encryptB b => issue (.encrypt (toWire b))
  | .resultB => [.readDout]
  | .encryptblocks k vs =>
    issue (.loadkey k) ++ [.wait] ++ (vs.map fun v => issue (.encrypt v) ++ [.wait, .readDout]).flatten

/-- The value of a hex digit. -/
def hexValue (c : Char) : Option Nat :=
  let n := c.toNat
  if 48 ≤ n ∧ n ≤ 57 then some (n - 48)
  else if 97 ≤ n ∧ n ≤ 102 then some (n - 87)
  else if 65 ≤ n ∧ n ≤ 70 then some (n - 55)
  else none

/-- The value of a run of hex digits, the most significant first. -/
def hexNumber : List Char → Nat → Option Nat
  | [], acc => some acc
  | c :: cs, acc =>
    match hexValue c with
    | some d => hexNumber cs (16 * acc + d)
    | none => none

/-- The digit of a value below 16. -/
def hexDigit (d : Nat) : Char := if d < 10 then Char.ofNat (48 + d) else Char.ofNat (87 + d)

/-- `n` hex digits of a value, the most significant first. -/
def hexText : Nat → Nat → List Char
  | 0, _ => []
  | n + 1, v => hexDigit (v / 16 ^ n % 16) :: hexText n v

/-- The encoding of a command as text: 33 hex digits, the top one `cmd` (R59). -/
def encodingText (cw : CommandWord) : List Char := '0' :: 'x' :: hexText 33 cw.toNat

/-- `0x` and exactly 32 hex digits: a packed value (R59). -/
def packedOfText : List Char → Option Packed
  | '0' :: 'x' :: ds => if ds.length = 32 then (hexNumber ds 0).map (BitVec.ofNat 128) else none
  | _ => none

/-- 32 hex digits without `0x`: sixteen bytes in conventional order, the first byte first (R6, R60). -/
def blockOfText (ds : List Char) : Option Block :=
  if ds.length = 32 then
    (hexNumber ds 0).map fun n => Vector.ofFn fun i : Fin 16 => ext (BitVec.ofNat 128 n) i.val
  else none

/-- A finished token, if there is one. -/
def flush (cur : List Char) : List (List Char) := if cur.isEmpty then [] else [cur]

/-- The tokens of a line: blanks separate, a comma is a token of its own, a semicolon begins a comment (R59). -/
def tokens : List Char → List Char → List (List Char)
  | [], cur => flush cur
  | c :: cs, cur =>
    if c = ';' then flush cur
    else if c = ' ' ∨ c = '\t' then flush cur ++ tokens cs []
    else if c = ',' then flush cur ++ [[',']] ++ tokens cs []
    else tokens cs (cur ++ [c])

/-- Packed values, each after a comma (R60). -/
def packedList : List (List Char) → Option (List Packed)
  | [] => some []
  | [_] => none
  | comma :: t :: ts =>
    if comma = [','] then
      match packedOfText t, packedList ts with
      | some v, some vs => some (v :: vs)
      | _, _ => none
    else none

/-- One line of text, read by the syntax of R59 and R60; anything else is no line. -/
def parseLine (text : List Char) : Option Line :=
  match tokens text [] with
  | [] => some .blank
  | [t] =>
    if t = "NOP".toList then some .nop
    else if t = "RSVD".toList then some .rsvd
    else if t = "WAIT".toList then some .wait
    else if t = "RESULT.B".toList then some .resultB
    else none
  | t :: u :: ts =>
    if t = "ENCRYPTBLOCKS".toList then
      match packedOfText u, packedList ts with
      | some k, some vs => some (.encryptblocks k vs)
      | _, _ => none
    else if ts.isEmpty then
      if t = "LOADKEY".toList then (packedOfText u).map .loadkey
      else if t = "ENCRYPT".toList then (packedOfText u).map .encrypt
      else if t = "LOADKEY.B".toList then (blockOfText u).map .loadkeyB
      else if t = "ENCRYPT.B".toList then (blockOfText u).map .encryptB
      else none
    else none

end Sys2Proof.Machine
end

