-- ==== Sys2Proof/Safety.lean ====
section
/-! DEFINITION. What claims are stated in: the invariant of spec/10_state.md R17 and R25, readiness, the control part of a
state (R112), the end of a run (R165), and what `RK` holds of a schedule. -/

namespace Sys2Proof.Machine

/-- The first `n` bytes of `RK` hold those of the schedule `r` (R12, R33). -/
def RkHolds (m : Memory) (r : Schedule) (n : Nat) : Prop :=
  ∀ a, a < n → Memory.read m a = some (Schedule.byteAt r a)

/-- The core accepts a command (R20, R120). -/
def State.ready (s : State) : Prop := s.busy = false

/-- The invariant: the canonical form of `RK`, the six statements of R25, and what R17 and R12 say of the content of `RK`
with and without a complete schedule. -/
structure State.Inv (s : State) : Prop where
  /-- `RK` is in canonical form (R30). -/
  memory : Memory.wf s.RK = true
  /-- `phase = ROUND` implies `round <= 10`. -/
  round_le : s.phase = .round → s.round.toNat ≤ 10
  /-- `phase = KEYEXP` implies `4 <= widx <= 43`. -/
  widx_range : s.phase = .keyexp → 4 ≤ s.widx.toNat ∧ s.widx.toNat ≤ 43
  /-- `phase = KEYEXP` implies `key_valid = 0`. -/
  keyexp_invalid : s.phase = .keyexp → s.keyValid = false
  /-- `phase` in `INITIAL`, `ROUND`, `DONE` implies `key_valid = 1`. -/
  block_valid : s.phase = .initial ∨ s.phase = .round ∨ s.phase = .done → s.keyValid = true
  /-- `dout_valid = 1` exactly in phase `DONE`. -/
  dout_valid_iff : s.doutValid = true ↔ s.phase = .done
  /-- In `KEYEXP` the words before `widx` are those of the expansion of one key (R12, R111). -/
  keyexp_prefix : s.phase = .keyexp → ∃ k, RkHolds s.RK (expandKey k) (4 * s.widx.toNat)
  /-- `key_valid = 1` implies `RK = ExpandKey(K)` for a key `K` (R17). -/
  schedule : s.keyValid = true → ∃ k, RkHolds s.RK (expandKey k) Config.NRKBYTES

/-- The part of a state that decides what the core does next and what its flags say: no byte of `S`, `RK` or `dout` is in it
(R112). -/
structure Control where
  phase : Phase
  round : BitVec 4
  widx : BitVec 6
  keyValid : Bool
  doutValid : Bool
  errNokey : Bool
  errBadcmd : Bool
  freeCount : Nat
deriving DecidableEq, Repr

/-- The control part of a state (R112). -/
def State.control (s : State) : Control where
  phase := s.phase
  round := s.round
  widx := s.widx
  keyValid := s.keyValid
  doutValid := s.doutValid
  errNokey := s.errNokey
  errBadcmd := s.errBadcmd
  freeCount := s.freeCount

/-- No error flag is set (R144). -/
def State.noError (s : State) : Prop := s.errNokey = false ∧ s.errBadcmd = false

/-- The values of `dout` the host has read since `s`, oldest first: what a run that goes turn by turn has read so far (R124,
R126). -/
def State.readSince (t s : State) : List Packed := t.received.drop s.received.length

/-- A run of the host procedure over `n` blocks, of which the host has read the values `read`, is over (R165): the core is not
busy; it is in `DONE`, or in `IDLE` when there are no blocks; and the host has read all `n` values, the last of them the `dout` that
stands there, `c[n-1]`. For a run turn by turn from `s`, `read` is `t.readSince s`; a fused run returns what it read in `result`. -/
def State.runOver (t : State) (n : Nat) (read : List Packed) : Prop :=
  t.ready ∧ read.length = n ∧ (n = 0 → t.phase = .idle) ∧ (n ≠ 0 → t.phase = .done ∧ read.getLast? = some t.dout)

/-- A run that is over, with no error flag set: a successful end (R165). -/
def State.successfulEnd (t : State) (n : Nat) (read : List Packed) : Prop := t.runOver n read ∧ t.noError

end Sys2Proof.Machine
end

