-- ==== Sys2Proof/Certificates/Slice0/Obligations.lean ====
section
/-! DEFINITION. The statements for the provers, from the numbered rules of spec/. A record update `{ s with ... }` on the right
of an answer states the whole frame: every field it does not name is unchanged. -/

open Sys2Proof Sys2Proof.Machine

/-! ### Encodings and decoders (spec/30_encoding.md) -/

/-- Command words as spec/96_test_programs.md and spec/95_test_vectors.md L2.10 write them decode to what they stand for. -/
def Obligations.CommandWordsDecodeAsWritten : Prop :=
  decode 0x109cf4f3cabf7158828aed2a62b7e1516#130 = .loadkey 0x09cf4f3cabf7158828aed2a62b7e1516#128 ∧
  decode 0x27393172ae93d7e112e409f966bc1bee2#130 = .encrypt 0x7393172ae93d7e112e409f966bc1bee2#128 ∧
  decode 0x300000000000000000000000000000000#130 = .rsvd 0#128 ∧
  decode 0x000000000000000000000000000000000#130 = .nop 0#128 ∧
  decodeTableWord 136 0x10c0d0e0f08090a0b0405060700010203 = some (.loadkey 0x0c0d0e0f08090a0b0405060700010203#128) ∧
  decodeTableWord 130 0x3ffffffffffffffffffffffffffffffff = some (.rsvd 0xffffffffffffffffffffffffffffffff#128)

/-- Decoding an encoded host command gives it back, with every operand at every value: no bit is dropped (R50, R51). -/
def Obligations.DecodeOfEncodeIsTheCommand : Prop :=
  (∀ (i : Instr) (cw : CommandWord), encode i = some cw → decode cw = i) ∧
  (∀ i : Instr, (encode i).isSome = true ↔
    ∃ din, i = .nop din ∨ i = .loadkey din ∨ i = .encrypt din ∨ i = .rsvd din)

/-- Every one of the 2^130 command words is the encoding of the command it decodes to (R50, R53, R58). -/
def Obligations.EncodeOfDecodeIsTheWord : Prop :=
  ∀ cw : CommandWord, encode (decode cw) = some cw

/-- R56, the sequencer's decoder: which step each sequencer state selects, and that in a state that keeps the invariant
exactly one row of the table applies. -/
def Obligations.SequencerRegistersSelectTheStep : Prop :=
  (∀ (s : State), s.selected = some .kxStep ↔ s.phase = .keyexp ∧ 4 ≤ s.widx.toNat ∧ s.widx.toNat ≤ 43) ∧
  (∀ (s : State), s.selected = some .rndInit ↔ s.phase = .initial) ∧
  (∀ (s : State), s.selected = some .rndFull ↔ s.phase = .round ∧ s.round.toNat ≤ 8) ∧
  (∀ (s : State), s.selected = some .rndFinal ↔ s.phase = .round ∧ s.round.toNat = 9) ∧
  (∀ (s : State), s.selected = some .rndDone ↔ s.phase = .round ∧ s.round.toNat = 10) ∧
  (∀ (s : State), s.phase = .idle ∨ s.phase = .done → s.selected = none) ∧
  (∀ (s : State), s.Inv → s.selected = none → s.phase = .idle ∨ s.phase = .done)

/-- R59, R60: what lines of the syntax and pseudo-commands stand for, for every key and every list of blocks, and the examples the
spec encodes. That a command line is a held word is the model's choice (DESIGN CHOICE, log entry 20). -/
def Obligations.PseudoCommandsExpandAsWritten : Prop :=
  (∀ k : Block, Line.instr (.loadkeyB k) = some (.loadkey (toWire k))) ∧
  (∀ b : Block, Line.instr (.encryptB b) = some (.encrypt (toWire b))) ∧
  Line.instr .rsvd = some (.rsvd 0) ∧ Line.encoding .wait = none ∧
  (parseLine "LOADKEY.B 2b7e151628aed2a6abf7158809cf4f3c".toList).bind Line.encoding =
    some 0x109cf4f3cabf7158828aed2a62b7e1516#130 ∧
  (parseLine "ENCRYPT 0x7393172ae93d7e112e409f966bc1bee2 ; block 1".toList).bind Line.encoding =
    some 0x27393172ae93d7e112e409f966bc1bee2#130 ∧
  encodingText 0x109cf4f3cabf7158828aed2a62b7e1516#130 = "0x109cf4f3cabf7158828aed2a62b7e1516".toList ∧
  (∀ k vs, Line.turns (.encryptblocks k vs) =
    .hold (commandWord 0b01#2 k) :: .wait ::
      (vs.map fun v => [.hold (commandWord 0b10#2 v), .wait, .readDout]).flatten)

/-! ### Steps -/

/-- A step whose first turn presents a command word to a ready core is that command, with the turn used up; a word held for
the core is the same once it is ready; and a host procedure runs likewise. -/
def Obligations.StepRunsThePresentedCommand : Prop :=
  (∀ (s : State) cw rest, s.host = .present cw :: rest → step s = exec (decode cw) { s with host := rest }) ∧
  (∀ (s : State) cw rest, s.host = .hold cw :: rest → s.busy = false →
    step s = exec (decode cw) { s with host := rest }) ∧
  (∀ (s : State) k vs rest, s.host = .batchHw k vs :: rest →
    step s = exec (.encryptblockshw k vs) { s with host := rest }) ∧
  (∀ (s : State) key blocks rest, s.host = .batch key blocks :: rest →
    step s = exec (.encryptblocks key blocks) { s with host := rest })

/-- A step in which the core moves runs exactly the sequencer step its registers select (R56): when nothing else is to come, in
the core's own turn, and while the host holds a word, waits, or waits for `dout_valid` with the core busy. -/
def Obligations.StepRunsTheSelectedSequencerStep : Prop :=
  ∀ (s : State) (i : Instr), s.selected = some i →
    (s.host = [] → step s = exec i s) ∧
    (∀ rest, s.host = .core :: rest → step s = exec i { s with host := rest }) ∧
    (∀ cw rest, s.host = .hold cw :: rest → step s = exec i s) ∧
    (∀ rest, s.host = .wait :: rest → step s = exec i s) ∧
    (∀ rest, s.host = .readDout :: rest → s.doutValid = false → step s = exec i s)

/-- In `IDLE` and `DONE` the core has no step of its own and stays with all registers unchanged (R113); a wait ends there. Reading `dout`
while `dout_valid = 1` gives the host the value and changes nothing of the core (R124); while `dout_valid = 0` the host reads nothing. -/
def Obligations.ReadyCoreStaysAndReadingHasNoEffect : Prop :=
  (∀ s : State, s.phase = .idle ∨ s.phase = .done →
    (s.host = [] → step s = .next s) ∧
    (∀ rest, s.host = .core :: rest → step s = .next { s with host := rest }) ∧
    (∀ rest, s.host = .wait :: rest → step s = .next { s with host := rest })) ∧
  (∀ (s : State) rest, s.host = .readDout :: rest → s.doutValid = true →
    step s = .next { s with host := rest, received := s.received ++ [s.dout] }) ∧
  (∀ (s t : State) rest, s.host = .readDout :: rest → s.doutValid = false → step s = .next t →
    t.received = s.received)

/-- A command presented while the core is busy has no effect, is not queued and is not remembered; a held one stands until the
core is ready (R120, R159). R120 also allows that the issue is not enabled: that the meaning then answers the unchanged state is the
model's choice (DESIGN CHOICE, log entry 6), and the turns of the host are its own (DESIGN CHOICE, log entry 5). -/
def Obligations.CommandWhileBusyHasNoEffect : Prop :=
  (∀ (s : State) din, s.busy = true →
    exec (.nop din) s = .next s ∧ exec (.loadkey din) s = .next s ∧
    exec (.encrypt din) s = .next s ∧ exec (.rsvd din) s = .next s) ∧
  (∀ (s : State) cw rest, s.busy = true → s.host = .present cw :: rest → step s = .next { s with host := rest }) ∧
  (∀ (s t : State) cw rest, s.busy = true → s.host = .hold cw :: rest → step s = .next t → t.host = s.host)

/-! ### Host commands (spec/45_commands_batch.md, spec/60_exceptions.md) -/

/-- `NOP` writes nothing, whatever `din` is (R121, for a ready core). That its meaning at a busy core answers the unchanged state too is
the model's choice, since R120 also allows that the issue is not enabled (DESIGN CHOICE, log entry 6). -/
def Obligations.NopChangesNothing : Prop :=
  ∀ (s : State) (din : Packed), exec (.nop din) s = .next s

/-- The acceptance of `LOADKEY` (R122): the key in group 0, the rest of `RK` as before, and the registers it writes. -/
def Obligations.LoadkeyWritesGroupZeroAndStartsTheExpansion : Prop :=
  ∀ (s : State) (din : Packed), s.busy = false →
    ∃ t, exec (.loadkey din) s = .next t ∧
      (∀ (n : Nat) (h : n < 16), Memory.read t.RK n = some (unpackKey din)[n]) ∧
      (∀ a, 16 ≤ a → Memory.read t.RK a = Memory.read s.RK a) ∧
      t = { s with RK := t.RK, keyValid := false, doutValid := false, widx := 4, phase := .keyexp }

/-- The acceptance of `ENCRYPT` with a complete schedule (R123). -/
def Obligations.EncryptUnpacksTheBlock : Prop :=
  ∀ (s : State) (din : Packed), s.busy = false → s.keyValid = true →
    exec (.encrypt din) s = .next { s with S := unpack din, doutValid := false, phase := .initial }

/-- R138: `ENCRYPT` without a complete schedule sets `err_nokey` and does nothing else. -/
def Obligations.EncryptWithoutKeyRaisesNoKey : Prop :=
  ∀ (s : State) (din : Packed), s.busy = false → s.keyValid = false →
    exec (.encrypt din) s = .next { s with errNokey := true }

/-- R139: the reserved command sets `err_badcmd` and does nothing else, whatever `din` is. -/
def Obligations.ReservedCommandSetsErrBadcmd : Prop :=
  ∀ (s : State) (din : Packed), s.busy = false → exec (.rsvd din) s = .next { s with errBadcmd := true }

/-! ### Sequencer steps (spec/44_sequencer.md) -/

/-- R107. -/
def Obligations.RndInitAddsRoundKeyZero : Prop :=
  ∀ (s : State) (r : Schedule), s.phase = .initial →
    (∀ a, a < 16 → Memory.read s.RK a = some (Schedule.byteAt r a)) →
    exec .rndInit s = .next { s with S := addRoundKey 0 s.S r, phase := .round, round := 0 } ∧
    ((∀ a, a < 16 → Schedule.byteAt r a = 0) → addRoundKey 0 s.S r = s.S)

/-- R108: the round key is that of the round being completed. -/
def Obligations.RndFullCompletesTheNextRound : Prop :=
  ∀ (s : State) (r : Schedule) (k : Nat), s.phase = .round → s.round.toNat = k → k ≤ 8 →
    (∀ a, 16 * (k + 1) ≤ a → a < 16 * (k + 1) + 16 → Memory.read s.RK a = some (Schedule.byteAt r a)) →
    exec .rndFull s =
      .next { s with
        S := addRoundKey (k + 1) (mixColumns (shiftRows (subBytes s.S))) r, round := BitVec.ofNat 4 (k + 1) }

/-- R109: no MixColumns, round key 10. -/
def Obligations.RndFinalOmitsMixColumns : Prop :=
  ∀ (s : State) (r : Schedule), s.phase = .round → s.round.toNat = 9 →
    (∀ a, 160 ≤ a → a < 176 → Memory.read s.RK a = some (Schedule.byteAt r a)) →
    exec .rndFinal s = .next { s with S := addRoundKey 10 (shiftRows (subBytes s.S)) r, round := 10 }

/-- R110: the block leaves, `S` and `round` stay. -/
def Obligations.RndDonePacksTheBlock : Prop :=
  ∀ s : State, s.phase = .round → s.round.toNat = 10 →
    exec .rndDone s = .next { s with dout := pack s.S, doutValid := true, phase := .done }

/-- R111: one word of the schedule, nothing else of `RK`; the last word sets `key_valid` and ends the expansion. What `widx` holds
after the last word is left open (R16), and the model's counter of free values moves (DESIGN CHOICE, log entry 7). -/
def Obligations.KxStepWritesOneWord : Prop :=
  ∀ (s : State) (i : Nat) (p q : Word), s.phase = .keyexp → s.widx.toNat = i → 4 ≤ i → i ≤ 43 →
    (∀ (j : Nat) (h : j < 4), Memory.read s.RK (4 * (i - 1) + j) = some p[j]) →
    (∀ (j : Nat) (h : j < 4), Memory.read s.RK (4 * (i - 4) + j) = some q[j]) →
    ∃ t, exec .kxStep s = .next t ∧
      (∀ (j : Nat) (h : j < 4), Memory.read t.RK (4 * i + j) = some (kexpWord i p q)[j]) ∧
      (∀ a, ¬(4 * i ≤ a ∧ a < 4 * i + 4) → Memory.read t.RK a = Memory.read s.RK a) ∧
      (i < 43 → t = { s with RK := t.RK, widx := BitVec.ofNat 6 (i + 1) }) ∧
      (i = 43 → t = { s with RK := t.RK, keyValid := true, phase := .idle, widx := t.widx, freeCount := t.freeCount })

/-- A sequencer step is there only in the states that select it (R56): elsewhere its meaning stops by name, and so does the core's
turn in a busy state that selects none (U7). The model's choice (DESIGN CHOICE, log entry 13). -/
def Obligations.UnselectedStepsStopByName : Prop :=
  (∀ (s : State) (i : Instr), i = .kxStep ∨ i = .rndInit ∨ i = .rndFull ∨ i = .rndFinal ∨ i = .rndDone →
    s.selected ≠ some i → exec i s = .refused .stepNotSelected) ∧
  (∀ s : State, s.busy = true → s.selected = none → s.host = [] → step s = .refused .noStepSelected)

/-- What the functions answer to operands outside the ranges the rules give: entry 0 of the round constants, which no rule reads, is a
free byte (DESIGN CHOICE, log entry 8), and every other such operand stops by name. The model's choice (DESIGN CHOICE, log entry
14). -/
def Obligations.OperandsOutsideTheRulesAreNamed : Prop :=
  (∀ s : State, exec (.rcon 0) s = .next { s with result := .byte Config.rconZero }) ∧
  (∀ (j : Nat) (s : State), 11 ≤ j → exec (.rcon j) s = .fault .outsideSpace) ∧
  (∀ (i : Nat) (p q : Word) (s : State), i < 4 ∨ 43 < i →
    exec (.kexpword i p q) s = .refused .noSuchScheduleWord) ∧
  (∀ (g : Nat) (st : Block) (r : Schedule) (s : State), 11 ≤ g →
    exec (.addroundkey g st r) s = .fault .outsideSpace)

/-! ### Functions (spec/40_tables_gf.md to spec/43_marshaller.md)

The values are the rules'; that a value is returned in the field `result` is the model's (DESIGN CHOICE, log entry 9). -/

/-- R66: the lookup is total, a bijection, and `0x52` is the only byte that gives zero. -/
def Obligations.SboxLooksUpTheTable : Prop :=
  (∀ (b : Byte) (s : State), exec (.sbox b) s = .next { s with result := .byte (sbox b) }) ∧
  (∀ (b : Byte) (s : State), memRead s .sbox b.toNat 1 = .ok #v[sbox b]) ∧
  sbox 0x00 = 0x63 ∧ (∀ b : Byte, sbox b = 0x00 ↔ b = 0x52) ∧ Function.Bijective sbox ∧ sbox 0x40 = 0x09

/-- The checks R65 lists for the table, and its agreement with the construction by the field inverse and the affine map. -/
def Obligations.SboxAgreesWithItsConstruction : Prop :=
  sboxTable.length = 256 ∧
  (∀ b : Byte, sbox b ≠ b ∧ sbox b ≠ b ^^^ 0xff) ∧
  sboxTable.foldl (· ^^^ ·) 0 = 0x00 ∧ (sboxTable.map BitVec.toNat).sum = 32640 ∧
  sbox 0x00 = sboxAffine 0x00 ∧
  (∀ b : Byte, b ≠ 0 → ∃ x : Byte, gmul b x = 0x01 ∧ sbox b = sboxAffine x)

/-- R68, with the contents of R67: the first constant, and each next the doubling of the one before. -/
def Obligations.RconLooksUpTheTable : Prop :=
  (∀ (j : Nat) (s : State), 1 ≤ j → j ≤ 10 →
    exec (.rcon j) s = .next { s with result := .byte (rcon j) } ∧ memRead s .rcon j 1 = .ok #v[rcon j]) ∧
  rcon 1 = 0x01 ∧ (∀ j, 1 ≤ j → j ≤ 9 → rcon (j + 1) = xtime (rcon j)) ∧ rcon 9 = 0x1b ∧ rcon 10 = 0x36

/-- R69 and R70: doubling, reduced by `0x1b` exactly when the original high bit was set; the three multiplications of MixColumns, which
are the products of R72 by 1, 2 and 3. -/
def Obligations.XtimeDoublesInTheField : Prop :=
  (∀ (b : Byte) (s : State), exec (.xtime b) s = .next { s with result := .byte (xtime b) }) ∧
  (∀ b : Byte, b.toNat < 128 → (xtime b).toNat = 2 * b.toNat) ∧
  (∀ b : Byte, 128 ≤ b.toNat → xtime b = BitVec.ofNat 8 (2 * b.toNat - 256) ^^^ 0x1b) ∧
  xtime 0x00 = 0x00 ∧ xtime 0x7f = 0xfe ∧ xtime 0x80 = 0x1b ∧ xtime 0xff = 0xe5 ∧ xtime 0x8d = 0x01 ∧
  Function.Bijective xtime ∧ xtime 0x57 = 0xae ∧ xtime 0xae = 0x47 ∧
  (∀ b : Byte, mul1 b = b ∧ mul2 b = xtime b ∧ mul3 b = xtime b ^^^ b) ∧
  (∀ b : Byte, mul1 b = gmul b 0x01 ∧ mul2 b = gmul b 0x02 ∧ mul3 b = gmul b 0x03) ∧
  mul1 0x00 = 0x00 ∧ mul2 0x00 = 0x00 ∧ mul3 0x00 = 0x00 ∧ mul3 0x80 = 0x9b ∧ mul3 0xff = 0x1a ∧ mul3 0xbf = 0xda

/-- R75 and R76: the first byte goes to the end; each byte is substituted on its own and stays where it is. -/
def Obligations.RotwordAndSubwordActOnWords : Prop :=
  (∀ (t : Word) (s : State), exec (.rotword t) s = .next { s with result := .word #v[t[1], t[2], t[3], t[0]] }) ∧
  (∀ b : Byte, rotWord #v[b, b, b, b] = #v[b, b, b, b]) ∧ Function.Bijective rotWord ∧
  rotWord #v[0x09, 0xcf, 0x4f, 0x3c] = #v[0xcf, 0x4f, 0x3c, 0x09] ∧
  (∀ (t : Word) (s : State),
    exec (.subword t) s = .next { s with result := .word #v[sbox t[0], sbox t[1], sbox t[2], sbox t[3]] }) ∧
  subWord #v[0, 0, 0, 0] = #v[0x63, 0x63, 0x63, 0x63] ∧
  subWord #v[0xcf, 0x4f, 0x3c, 0x09] = #v[0x8a, 0x84, 0xeb, 0x01]

/-- R77, for every index it gives. -/
def Obligations.KexpwordComputesOneWord : Prop :=
  (∀ (i : Nat) (p q : Word) (s : State), 4 ≤ i → i ≤ 43 → i % 4 = 0 →
    exec (.kexpword i p q) s =
      .next { s with
        result := .word #v[sbox p[1] ^^^ rcon (i / 4) ^^^ q[0], sbox p[2] ^^^ q[1], sbox p[3] ^^^ q[2],
          sbox p[0] ^^^ q[3]] }) ∧
  (∀ (i : Nat) (p q : Word) (s : State), 4 ≤ i → i ≤ 43 → i % 4 ≠ 0 →
    exec (.kexpword i p q) s =
      .next { s with result := .word #v[p[0] ^^^ q[0], p[1] ^^^ q[1], p[2] ^^^ q[2], p[3] ^^^ q[3]] }) ∧
  kexpWord 4 #v[0x09, 0xcf, 0x4f, 0x3c] #v[0x2b, 0x7e, 0x15, 0x16] = #v[0xa0, 0xfa, 0xfe, 0x17] ∧
  kexpWord 5 #v[0xa0, 0xfa, 0xfe, 0x17] #v[0x28, 0xae, 0xd2, 0xa6] = #v[0x88, 0x54, 0x2c, 0xb1] ∧
  kexpWord 36 #v[0x7f, 0x8d, 0x29, 0x2f] #v[0xea, 0xd2, 0x73, 0x21] = #v[0xac, 0x77, 0x66, 0xf3] ∧
  kexpWord 40 #v[0x57, 0x5c, 0x00, 0x6e] #v[0xac, 0x77, 0x66, 0xf3] = #v[0xd0, 0x14, 0xf9, 0xa8] ∧
  kexpWord 43 #v[0xe1, 0x3f, 0x0c, 0xc8] #v[0x57, 0x5c, 0x00, 0x6e] = #v[0xb6, 0x63, 0x0c, 0xa6]

/-- R78: the key verbatim, then every word from the word before it and the word four back. -/
def Obligations.ExpandkeySatisfiesTheRecurrence : Prop :=
  (∀ (k : Block) (s : State), exec (.expandkey k) s = .next { s with result := .schedule (expandKey k) }) ∧
  (∀ (k : Block) (n : Nat) (h : n < 16), Schedule.byteAt (expandKey k) n = k[n]) ∧
  (∀ (k : Block) (i : Nat), 4 ≤ i → i ≤ 43 →
    Schedule.wordAt (expandKey k) i =
      kexpWord i (Schedule.wordAt (expandKey k) (i - 1)) (Schedule.wordAt (expandKey k) (i - 4))) ∧
  roundKey (expandKey (Vector.replicate 16 0)) 1 =
    #v[0x62, 0x63, 0x63, 0x63, 0x62, 0x63, 0x63, 0x63, 0x62, 0x63, 0x63, 0x63, 0x62, 0x63, 0x63, 0x63]

/-- R80: group 0 is the key, and group `g + 1` is the stated function of group `g` and `RCON[g+1]` alone. -/
def Obligations.NextRoundKeyDependsOnThePreviousOne : Prop :=
  (∀ k : Block, roundKey (expandKey k) 0 = k) ∧
  (∀ (k : Block) (g : Nat), g ≤ 9 →
    Schedule.wordAt (expandKey k) (4 * (g + 1)) =
      kexpWord (4 * (g + 1)) (Schedule.wordAt (expandKey k) (4 * g + 3)) (Schedule.wordAt (expandKey k) (4 * g))) ∧
  (∀ (k : Block) (g j : Nat), g ≤ 9 → 1 ≤ j → j ≤ 3 →
    Schedule.wordAt (expandKey k) (4 * (g + 1) + j) =
      xorWord (Schedule.wordAt (expandKey k) (4 * (g + 1) + j - 1)) (Schedule.wordAt (expandKey k) (4 * g + j))) ∧
  (∀ (k k' : Block) (g : Nat), g ≤ 9 → roundKey (expandKey k) g = roundKey (expandKey k') g →
    roundKey (expandKey k) (g + 1) = roundKey (expandKey k') (g + 1))

/-- R85: byte by byte, for rounds 0 to 10; it is its own inverse, and a zero round key leaves the state alone. -/
def Obligations.AddroundkeyXorsTheRoundKey : Prop :=
  (∀ (g : Nat) (st : Block) (r : Schedule) (s : State), g ≤ 10 →
    exec (.addroundkey g st r) s = .next { s with result := .block (addRoundKey g st r) }) ∧
  (∀ (g : Nat) (st : Block) (r : Schedule) (n : Nat) (h : n < 16), g ≤ 10 →
    (addRoundKey g st r)[n] = st[n] ^^^ Schedule.byteAt r (16 * g + n)) ∧
  (∀ (g : Nat) (st : Block) (r : Schedule), addRoundKey g (addRoundKey g st r) r = st) ∧
  (∀ (g : Nat) (st : Block) (r : Schedule), (∀ n, n < 16 → Schedule.byteAt r (16 * g + n) = 0) →
    addRoundKey g st r = st)

/-- R86. -/
def Obligations.SubbytesSubstitutesEveryByte : Prop :=
  (∀ (st : Block) (s : State), exec (.subbytes st) s = .next { s with result := .block (subBytes st) }) ∧
  (∀ (st : Block) (n : Nat) (h : n < 16), (subBytes st)[n] = sbox st[n]) ∧
  subBytes (Vector.replicate 16 0) = Vector.replicate 16 0x63 ∧ sbox 0x52 = 0x00

/-- R87: row `r` rotates left by `r` columns; row 0 stays; equal columns stay; four applications restore any state. -/
def Obligations.ShiftrowsRotatesEachRow : Prop :=
  (∀ (st : Block) (s : State), exec (.shiftrows st) s = .next { s with result := .block (shiftRows st) }) ∧
  (∀ (st : Block) (r c : Nat), r < 4 → c < 4 → Block.at (shiftRows st) r c = Block.at st r ((c + r) % 4)) ∧
  (∀ (st : Block) (c : Nat), c < 4 → Block.at (shiftRows st) 0 c = Block.at st 0 c) ∧
  (∀ st : Block, (∀ r c c', r < 4 → c < 4 → c' < 4 → Block.at st r c = Block.at st r c') → shiftRows st = st) ∧
  (∀ st : Block, shiftRows (shiftRows (shiftRows (shiftRows st))) = st)

/-- R88: each column is the fixed matrix times the old column; a column of four equal bytes stays; the map is linear. The second
formulation, with `xtime` of sums, is the spec's own inference, marked there as derived from R70 and R71. -/
def Obligations.MixcolumnsMultipliesEachColumn : Prop :=
  (∀ (st : Block) (s : State), exec (.mixcolumns st) s = .next { s with result := .block (mixColumns st) }) ∧
  (∀ (st : Block) (c : Nat) (h : c < 4),
    (mixColumns st)[4 * c] = mul2 st[4 * c] ^^^ mul3 st[4 * c + 1] ^^^ st[4 * c + 2] ^^^ st[4 * c + 3] ∧
    (mixColumns st)[4 * c + 1] = st[4 * c] ^^^ mul2 st[4 * c + 1] ^^^ mul3 st[4 * c + 2] ^^^ st[4 * c + 3] ∧
    (mixColumns st)[4 * c + 2] = st[4 * c] ^^^ st[4 * c + 1] ^^^ mul2 st[4 * c + 2] ^^^ mul3 st[4 * c + 3] ∧
    (mixColumns st)[4 * c + 3] = mul3 st[4 * c] ^^^ st[4 * c + 1] ^^^ st[4 * c + 2] ^^^ mul2 st[4 * c + 3]) ∧
  (∀ (st : Block) (c k : Nat), c < 4 → k < 4 →
    Block.at (mixColumns st) k c =
      Block.at st k c ^^^ (Block.at st 0 c ^^^ Block.at st 1 c ^^^ Block.at st 2 c ^^^ Block.at st 3 c) ^^^
        xtime (Block.at st k c ^^^ Block.at st ((k + 1) % 4) c)) ∧
  (∀ b : Byte, mixColumn b b b b = #v[b, b, b, b]) ∧
  mixColumn 0x01 0 0 0 = #v[0x02, 0x01, 0x01, 0x03] ∧ mixColumn 0x80 0 0 0 = #v[0x1b, 0x80, 0x80, 0x9b] ∧
  mixColumn 0xdb 0x13 0x53 0x45 = #v[0x8e, 0x4d, 0xa1, 0xbc] ∧
  (∀ a b : Block, mixColumns (xorBlock a b) = xorBlock (mixColumns a) (mixColumns b))

/-- The external check the document suggests: MixColumns composed with its mathematical inverse (R72) restores the state. -/
def Obligations.InverseMatrixUndoesMixcolumns : Prop :=
  ∀ st : Block, invMixColumns (mixColumns st) = st

/-- Every round primitive loses nothing: each is a bijection on states (conflict C4 and the inference in R89). -/
def Obligations.RoundPrimitivesAreBijections : Prop :=
  Function.Bijective subBytes ∧ Function.Bijective shiftRows ∧ Function.Bijective mixColumns ∧
  (∀ (g : Nat) (r : Schedule), Function.Bijective fun st => addRoundKey g st r)

/-- R95: packed byte `i` lands at conventional index `4 * (3 - i div 4) + i mod 4`. -/
def Obligations.UnpackReversesTheWordOrder : Prop :=
  (∀ (v : Packed) (s : State), exec (.unpack v) s = .next { s with result := .block (unpack v) }) ∧
  (∀ (v : Packed) (i : Nat) (h : i < 16), (unpack v)[4 * (3 - i / 4) + i % 4] = v.extractLsb' (8 * (15 - i)) 8) ∧
  (∀ (w : BitVec 32) (r c : Nat), r < 4 → c < 4 →
    Block.at (unpack (w ++ w ++ w ++ w)) r c = Block.at (unpack (w ++ w ++ w ++ w)) r 0) ∧
  unpack 0x00112233445566778899aabbccddeeff#128 =
    #v[0xcc, 0xdd, 0xee, 0xff, 0x88, 0x99, 0xaa, 0xbb, 0x44, 0x55, 0x66, 0x77, 0x00, 0x11, 0x22, 0x33] ∧
  unpack 0x00000000000000000000000000000001#128 = #v[0, 0, 0, 1, 0, 0, 0, 0, 0, 0, 0, 0, 0, 0, 0, 0] ∧
  unpack 0x80000000000000000000000000000000#128 = #v[0, 0, 0, 0, 0, 0, 0, 0, 0, 0, 0, 0, 0x80, 0, 0, 0]

/-- R96: conventional byte `n` goes to bits `8p+7 : 8p` with `p = 4 * (n div 4) + 3 - n mod 4`. -/
def Obligations.PackPlacesEveryByte : Prop :=
  (∀ (st : Block) (s : State), exec (.pack st) s = .next { s with result := .packed (pack st) }) ∧
  (∀ (st : Block) (n : Nat) (h : n < 16), (pack st).extractLsb' (8 * (4 * (n / 4) + 3 - n % 4)) 8 = st[n]) ∧
  (∀ (st : Block) (i : Nat) (h : i < 16), (pack st).extractLsb' (8 * (15 - i)) 8 = st[4 * (3 - i / 4) + i % 4]) ∧
  pack #v[0, 1, 2, 3, 4, 5, 6, 7, 8, 9, 10, 11, 12, 13, 14, 15] = 0x0c0d0e0f08090a0b0405060700010203#128 ∧
  pack #v[1, 0, 0, 0, 0, 0, 0, 0, 0, 0, 0, 0, 0, 0, 0, 0] = 0x00000000000000000000000001000000#128 ∧
  pack #v[0, 0, 0, 0, 0, 0, 0, 0, 0, 0, 0, 0, 0, 0, 0, 1] = 0x00000001000000000000000000000000#128

/-- R97: word `w`, byte `b` of the extracted bytes is key byte `4 * (3 - w) + b`. -/
def Obligations.UnpackkeyReversesTheWordOrder : Prop :=
  (∀ (v : Packed) (s : State), exec (.unpackkey v) s = .next { s with result := .block (unpackKey v) }) ∧
  (∀ (v : Packed) (w b : Nat) (hw : w < 4) (hb : b < 4),
    (unpackKey v)[4 * (3 - w) + b] = v.extractLsb' (8 * (15 - (4 * w + b))) 8) ∧
  unpackKey 0x00000000000000000000000000000001#128 = #v[0, 0, 0, 1, 0, 0, 0, 0, 0, 0, 0, 0, 0, 0, 0, 0] ∧
  unpackKey 0x80000000000000000000000000000000#128 = #v[0, 0, 0, 0, 0, 0, 0, 0, 0, 0, 0, 0, 0x80, 0, 0, 0] ∧
  unpackKey 0x09cf4f3cabf7158828aed2a62b7e1516#128 =
    #v[0x2b, 0x7e, 0x15, 0x16, 0x28, 0xae, 0xd2, 0xa6, 0xab, 0xf7, 0x15, 0x88, 0x09, 0xcf, 0x4f, 0x3c]

/-- R98: the marshaller's round trip, both ways. That the permutation of the bytes is its own inverse is the spec's own inference, marked
there as derived from R95 and R96. -/
def Obligations.PackAndUnpackAreInverse : Prop :=
  (∀ v : Packed, pack (unpack v) = v) ∧ (∀ st : Block, unpack (pack st) = st) ∧
  (∀ i, i < 16 → swapIndex (swapIndex i) = i)

/-- The block rule and the key rule move bytes identically (the inference in R99), and the host's word view of R101 is the wire
value. -/
def Obligations.KeyAndBlockMarshalAlike : Prop :=
  (∀ v : Packed, unpack v = unpackKey v) ∧
  (∀ b : Block, toWire b = toWireWords (blockWord b 0) (blockWord b 1) (blockWord b 2) (blockWord b 3)) ∧
  (∀ b : Block, unpack (toWire b) = b ∧ unpackKey (toWire b) = b ∧ fromWire (toWire b) = b)

/-- R106: eleven key additions in ascending order, ten substitutions and rotations, nine mixings. That under a fixed schedule the
cipher is a bijection on states, so that two blocks never share a ciphertext, is the spec's own inference, marked there as derived
from R89. -/
def Obligations.CipherAppliesTenRoundsAndIsABijection : Prop :=
  (∀ (st : Block) (r : Schedule) (s : State), exec (.cipher st r) s = .next { s with result := .block (cipher st r) }) ∧
  (∀ (st : Block) (r : Schedule),
    cipher st r =
      addRoundKey 10
        (shiftRows (subBytes
          (([1, 2, 3, 4, 5, 6, 7, 8, 9] : List Nat).foldl
            (fun x k => addRoundKey k (mixColumns (shiftRows (subBytes x))) r) (addRoundKey 0 st r)))) r) ∧
  (∀ r : Schedule, Function.Bijective fun st => cipher st r)

/-- The conformance vector of spec/95_test_vectors.md L1.1, and the AES standard's example of L2.7 line 6, as packed values. -/
def Obligations.ConformanceVectorsHold : Prop :=
  encryptBlock 0x09cf4f3cabf7158828aed2a62b7e1516#128 0x7393172ae93d7e112e409f966bc1bee2#128 =
    0x2466ef97a89ecaf30d7a36603ad77bb4#128 ∧
  encryptBlock 0x0c0d0e0f08090a0b0405060700010203#128 0xccddeeff8899aabb4455667700112233#128 =
    0x70b4c55ad8cdb7806a7b043069c4e0d8#128

/-- R91, over every function row: a function that answers changes no register, no flag, no store and nothing of the host's; only its
value is returned. -/
def Obligations.FunctionsChangeNoRegister : Prop :=
  ∀ (i : Instr) (s t : State), exec i s = .next t →
    (∃ b, i = .sbox b) ∨ (∃ j, i = .rcon j) ∨ (∃ b, i = .xtime b) ∨ (∃ w, i = .rotword w) ∨ (∃ w, i = .subword w) ∨
      (∃ n p q, i = .kexpword n p q) ∨ (∃ k, i = .expandkey k) ∨ (∃ g st r, i = .addroundkey g st r) ∨
      (∃ st, i = .subbytes st) ∨ (∃ st, i = .shiftrows st) ∨ (∃ st, i = .mixcolumns st) ∨ (∃ v, i = .unpack v) ∨
      (∃ st, i = .pack st) ∨ (∃ v, i = .unpackkey v) ∨ (∃ st r, i = .cipher st r) →
    t = { s with result := t.result }

/-! ### Whole commands, procedures and the machine -/

/-- R122 with its forty steps: the acceptance puts the key in group 0 of `RK` and keeps the rest; the core is then busy for exactly forty
steps, after which `RK` holds `ExpandKey(UnpackKey(din))`, `key_valid = 1`, and the core is in `IDLE`; no other register, flag or output
has changed. What `widx` holds at the end is open (R16). That the core moves when no turn is left is the model's choice (DESIGN CHOICE,
log entry 5). -/
def Obligations.LoadkeyThenFortyStepsHoldsTheSchedule : Prop :=
  ∀ (s : State) (din : Packed), s.busy = false → s.host = [] →
    ∃ t u, exec (.loadkey din) s = .next t ∧ Host.Core.run Sys2Proof.core 40 t = .next u ∧
      t = { s with RK := t.RK, keyValid := false, doutValid := false, widx := 4, phase := .keyexp } ∧
      (∀ (n : Nat) (h : n < 16), Memory.read t.RK n = some (unpackKey din)[n]) ∧
      (∀ a, 16 ≤ a → Memory.read t.RK a = Memory.read s.RK a) ∧
      RkHolds u.RK (expandKey (unpackKey din)) 176 ∧
      (∀ a, 176 ≤ a → Memory.read u.RK a = Memory.read s.RK a) ∧
      u = { s with RK := u.RK, phase := .idle, keyValid := true, doutValid := false, widx := u.widx,
                   freeCount := u.freeCount } ∧
      (∀ n, n < 40 → ∃ w : State, Host.Core.run Sys2Proof.core n t = .next w ∧ w.busy = true ∧ w.keyValid = false)

/-- R123 with its twelve steps, in the order of R105: after an accepted `ENCRYPT` the core is busy for exactly twelve steps; after the
first it holds the state of `RoundKeyAdded(0)`, after each of the next nine that of `Round(k)`, and at the end `dout` is
`Pack(Cipher(Unpack(din), RK))`. Without a complete schedule it raises `NoKey` and nothing else. That the core moves when no turn is
left is the model's choice (DESIGN CHOICE, log entry 5). -/
def Obligations.EncryptThenTwelveStepsGivesTheCiphertext : Prop :=
  (∀ (s : State) (din : Packed) (r : Schedule), s.busy = false → s.keyValid = true → s.host = [] → RkHolds s.RK r 176 →
    ∃ t u, exec (.encrypt din) s = .next t ∧ Host.Core.run Sys2Proof.core 12 t = .next u ∧
      t = { s with S := unpack din, doutValid := false, phase := .initial } ∧
      u = { s with S := cipher (unpack din) r, phase := .done, round := 10, dout := pack (cipher (unpack din) r),
                   doutValid := true } ∧
      (∀ k, k ≤ 9 → ∃ w : State, Host.Core.run Sys2Proof.core (k + 1) t = .next w ∧ w.phase = .round ∧
        w.round = BitVec.ofNat 4 k ∧ w.S = roundsTo (unpack din) r k) ∧
      (∀ n, n < 12 → ∃ w : State, Host.Core.run Sys2Proof.core n t = .next w ∧ w.busy = true ∧ w.dout = s.dout)) ∧
  (∀ (s : State) (din : Packed), s.busy = false → s.keyValid = false →
    exec (.encrypt din) s = .next { s with errNokey := true })

/-- R126: from every state that keeps the invariant, busy or ready, `EncryptBlocksHW` returns `EncryptBlock(k, v[j])` for every `j`, in
order; it leaves the schedule of `k` in `RK` and the last ciphertext in `dout`, and the run is over as R165 says, successfully if no error
flag was set before it. That it raises no error is the spec's own inference, marked in R126 as derived from R120 and R111. That the
procedure is one step, and that with no blocks it waits for the end of the expansion, R165's `IDLE`, where R126's loop has no such wait,
is DEDUCED from R114, R60 and R165 (log entry 10). -/
def Obligations.EncryptBlocksHwReturnsEveryCiphertext : Prop :=
  ∀ (s : State) (k : Packed) (vs : List Packed), s.Inv →
    ∃ t, exec (.encryptblockshw k vs) s = .next t ∧
      t.result = .packedBlocks (vs.map (encryptBlock k)) ∧
      RkHolds t.RK (expandKey (unpackKey k)) 176 ∧ t.keyValid = true ∧ t.busy = false ∧
      (vs = [] → t.phase = .idle) ∧
      (∀ v, vs.getLast? = some v → t.phase = .done ∧ t.doutValid = true ∧ t.dout = encryptBlock k v) ∧
      t.errNokey = s.errNokey ∧ t.errBadcmd = s.errBadcmd ∧ t.host = s.host ∧ t.received = s.received ∧ t.Inv ∧
      t.runOver vs.length (vs.map (encryptBlock k)) ∧
      (s.noError → t.successfulEnd vs.length (vs.map (encryptBlock k)))

/-- R127: arguments of the right lengths give the ciphertexts, in order, in conventional byte order. A key of another length is reported
first, whatever the blocks are (R136); with a good key, one block of another length fails the whole call (R137); then the core is not
touched. That the call raises no `NoKey` is the spec's own inference, marked in R126 as derived from R120 and R111. That the procedure
is one step is DEDUCED from R114 (log entry 10), and that it returns in the field `result` is the model's choice (DESIGN CHOICE, log
entry 9). -/
def Obligations.EncryptBlocksChecksLengthsThenEncrypts : Prop :=
  (∀ (s : State) (key : List Byte) (blocks : List (List Byte)), s.Inv → key.length = 16 → (∀ b ∈ blocks, b.length = 16) →
    ∃ t, exec (.encryptblocks key blocks) s = .next t ∧
      t.result = .byteBlocks (blocks.map fun b => cipher (blockOfBytes b) (expandKey (blockOfBytes key))) ∧
      t.errNokey = s.errNokey ∧ t.errBadcmd = s.errBadcmd ∧ t.host = s.host ∧ t.received = s.received ∧ t.Inv) ∧
  (∀ (s : State) (key : List Byte) (blocks : List (List Byte)), key.length ≠ 16 →
    exec (.encryptblocks key blocks) s = .next { s with result := .error .invalidKeyLength }) ∧
  (∀ (s : State) (key : List Byte) (blocks : List (List Byte)), key.length = 16 → (∃ b ∈ blocks, b.length ≠ 16) →
    exec (.encryptblocks key blocks) s = .next { s with result := .error .invalidBlockLength })

/-- R128: as many ciphertexts as blocks, and ciphertext `j` depends on the key and block `j` alone: two batches that agree at `j`,
run from any two states that keep the invariant, agree at `j`. The procedure is one step (DEDUCED, log entry 10) that returns in the
field `result` (DESIGN CHOICE, log entry 9). -/
def Obligations.BlocksAreIndependent : Prop :=
  ∀ (s s' : State) (k : Packed) (vs vs' : List Packed), s.Inv → s'.Inv →
    ∃ t t' cs cs', exec (.encryptblockshw k vs) s = .next t ∧ exec (.encryptblockshw k vs') s' = .next t' ∧
      t.result = .packedBlocks cs ∧ t'.result = .packedBlocks cs' ∧
      cs.length = vs.length ∧ cs'.length = vs'.length ∧
      ∀ j : Nat, vs[j]? = vs'[j]? → cs[j]? = cs'[j]?

/-- The invariant of R25 and R17 is kept by every step, whoever moves: the six implications of R25, the canonical form of `RK`, and
that `key_valid = 1` means `RK` is a whole key expansion. -/
def Obligations.EveryStepKeepsTheInvariant : Prop :=
  ∀ s t : State, s.Inv → step s = .next t → t.Inv

/-- From every state that keeps the invariant a step answers a next state: the datapath raises nothing (R140) and no read reaches a byte
without a value (R12). -/
def Obligations.NoStepStopsUnderTheInvariant : Prop :=
  ∀ s : State, s.Inv → ∃ t, step s = .next t

/-- The state after reset keeps the invariant. -/
def Obligations.ResetKeepsTheInvariant : Prop :=
  State.reset.Inv

/-- The state right after reset, for every element to which the spec gives a value: the phase, the flags, `busy` and `STATUS`. -/
def Obligations.ResetStateHasTheStatedValues : Prop :=
  State.reset.phase = .idle ∧ State.reset.keyValid = false ∧ State.reset.doutValid = false ∧
  State.reset.errNokey = false ∧ State.reset.errBadcmd = false ∧ State.reset.busy = false ∧
  State.reset.status = 0b00000#5

/-- The reset event (R155, R156, R142): whatever the core was doing, the step in which `rst` is asserted leaves those values, accepts no
command, takes no step of the core, and marks no `dout` valid; what it leaves in `S`, `RK`, `round`, `widx`, `dout` is open. A
command presented after it finds the core ready, and a block finds no key. That `rst` is one turn of the list is the model's choice
(DESIGN CHOICE, log entry 5), and so is that the host's own fields, the list and what it has read, are kept (DESIGN CHOICE, log
entry 22). -/
def Obligations.ResetEventAbandonsTheWorkInHand : Prop :=
  ∀ (s : State) rest, s.host = .rst :: rest →
    ∃ t, step s = .next t ∧
      t.phase = .idle ∧ t.keyValid = false ∧ t.doutValid = false ∧ t.errNokey = false ∧ t.errBadcmd = false ∧
      t.busy = false ∧ t.status = 0b00000#5 ∧ t.host = rest ∧ t.received = s.received ∧
      (∀ din, exec (.encrypt din) t = .next { t with errNokey := true })

/-- R113: a busy core that is left alone is ready after at most 40 of its steps. Steps are counted, not cycles (R163); that the core moves
when no turn is left is the model's choice (DESIGN CHOICE, log entry 5), which keeps no core from its turn. -/
def Obligations.BusyCoreIsReadyWithinFortySteps : Prop :=
  ∀ s : State, s.Inv → s.host = [] →
    ∃ (n : Nat) (t : State), n ≤ 40 ∧ Host.Core.run Sys2Proof.core n s = .next t ∧ t.busy = false

/-- R112: what the core does next never depends on a byte of `S`, `RK`, `dout` or `din`. Two states with the same control part, whatever
data they hold, have the same control part after the core's turn, and after any two commands with the same code. Three of the model's
choices are in it: that the empty list is the core's turn (DESIGN CHOICE, log entry 5); that a command at a busy core answers the
unchanged state (DESIGN CHOICE, log entry 6); and that the value R16 leaves open in `widx` after word 43 is drawn by the counter of free
values, so that equal counters give equal values (DESIGN CHOICE, log entry 7). -/
def Obligations.ControlDoesNotDependOnData : Prop :=
  ∀ s s' : State, s.Inv → s'.Inv → s.control = s'.control →
    (s.host = [] → s'.host = [] → ∃ t t', step s = .next t ∧ step s' = .next t' ∧ t.control = t'.control) ∧
    (∀ cw cw' : CommandWord, cmdField cw = cmdField cw' →
      ∃ t t', exec (decode cw) s = .next t ∧ exec (decode cw') s' = .next t' ∧ t.control = t'.control)

/-- R19: what sets the two error flags, and that nothing but reset clears them. A flag that is set stays set in every step but the reset
event, and in every instruction. -/
def Obligations.ErrorFlagsAreSticky : Prop :=
  (∀ s t : State, (∀ rest, s.host ≠ .rst :: rest) → step s = .next t →
    (s.errNokey = true → t.errNokey = true) ∧ (s.errBadcmd = true → t.errBadcmd = true)) ∧
  (∀ (i : Instr) (s t : State), exec i s = .next t →
    (s.errNokey = true → t.errNokey = true) ∧ (s.errBadcmd = true → t.errBadcmd = true)) ∧
  (∀ (s : State) rest, s.host = .rst :: rest →
    ∃ t, step s = .next t ∧ t.errNokey = false ∧ t.errBadcmd = false) ∧
  (∀ (s : State) (din : Packed), s.busy = false → s.keyValid = false →
    ∃ t, exec (.encrypt din) s = .next t ∧ t.errNokey = true) ∧
  (∀ (s : State) (din : Packed), s.busy = false → ∃ t, exec (.rsvd din) s = .next t ∧ t.errBadcmd = true) ∧
  State.reset.errNokey = false ∧ State.reset.errBadcmd = false

/-- R124: a finished result stays, whoever moves, until the next accepted `LOADKEY` or `ENCRYPT` or reset (a host procedure issues such
commands); reading it changes nothing and does not clear `dout_valid`. Who moves is the list of turns (DESIGN CHOICE, log entry 5), and
what the host reads is kept in `received` (DESIGN CHOICE, log entry 19). -/
def Obligations.ResultStaysUntilTheNextCommand : Prop :=
  ∀ s t : State, s.Inv → s.doutValid = true → step s = .next t →
    (∀ cw rest, s.host = .present cw :: rest ∨ s.host = .hold cw :: rest → cmdField cw = 0b00#2 ∨ cmdField cw = 0b11#2) →
    (∀ rest, s.host ≠ .rst :: rest) → (∀ k vs rest, s.host ≠ .batchHw k vs :: rest) →
    (∀ key blocks rest, s.host ≠ .batch key blocks :: rest) →
    t.dout = s.dout ∧ t.doutValid = true ∧ t.S = s.S ∧ t.RK = s.RK ∧ t.phase = s.phase ∧
      (∀ rest, s.host = .readDout :: rest → t.received = s.received ++ [s.dout])

/-- Who writes what (R10, R12, R14 to R19): of all operations of the core, only `LOADKEY` and `KX.STEP` write `RK`, `key_valid` and `widx`,
and `KX.STEP` raises `key_valid` only at word 43; only `RND.DONE` writes `dout` and sets `dout_valid`, which `LOADKEY` and `ENCRYPT` clear;
only `ENCRYPT` and the steps that add a round key write `S`, and only those steps `round`; only the two commands and the steps that leave
a phase write `phase`; only `ENCRYPT` sets `err_nokey` and only the reserved code `err_badcmd`; none touches the host's list or what it
has read, which are the model's own fields (DESIGN CHOICE, log entries 5 and 19). The two host procedures are sequences of these
operations. -/
def Obligations.EachRegisterHasItsWriters : Prop :=
  ∀ (i : Instr) (s t : State), exec i s = .next t →
    (∀ k vs, i ≠ .encryptblockshw k vs) → (∀ key blocks, i ≠ .encryptblocks key blocks) →
    ((∀ din, i ≠ .loadkey din) → i ≠ .kxStep → t.RK = s.RK ∧ t.keyValid = s.keyValid) ∧
    (s.keyValid = false → t.keyValid = true → i = .kxStep ∧ s.widx.toNat = 43) ∧
    (i ≠ .rndDone → t.dout = s.dout) ∧
    ((∀ din, i ≠ .loadkey din) → (∀ din, i ≠ .encrypt din) → i ≠ .rndDone → t.doutValid = s.doutValid) ∧
    (s.doutValid = false → t.doutValid = true → i = .rndDone) ∧
    ((∀ din, i ≠ .loadkey din) → (∀ din, i ≠ .encrypt din) → i ≠ .kxStep → i ≠ .rndInit → i ≠ .rndDone →
      t.phase = s.phase) ∧
    (i ≠ .rndInit → i ≠ .rndFull → i ≠ .rndFinal → t.round = s.round) ∧
    ((∀ din, i ≠ .loadkey din) → i ≠ .kxStep → t.widx = s.widx) ∧
    ((∀ din, i ≠ .encrypt din) → i ≠ .rndInit → i ≠ .rndFull → i ≠ .rndFinal → t.S = s.S) ∧
    ((∀ din, i ≠ .encrypt din) → t.errNokey = s.errNokey) ∧
    ((∀ din, i ≠ .rsvd din) → t.errBadcmd = s.errBadcmd) ∧
    t.host = s.host ∧ t.received = s.received

/-- R20: `busy` by phase, and the five bits of `STATUS`, all 0 after reset. -/
def Obligations.StatusShowsTheFlags : Prop :=
  ∀ s : State,
    (s.busy = true ↔ s.phase = .keyexp ∨ s.phase = .initial ∨ s.phase = .round) ∧
    (s.busy = false ↔ s.phase = .idle ∨ s.phase = .done) ∧
    s.status.getLsbD 0 = s.busy ∧ s.status.getLsbD 1 = s.keyValid ∧ s.status.getLsbD 2 = s.doutValid ∧
    s.status.getLsbD 3 = s.errNokey ∧ s.status.getLsbD 4 = s.errBadcmd ∧ State.reset.status = 0b00000#5

/-- The offsets of `RK` after any write the model makes: a `MemWrite` inside the space puts its bytes at consecutive offsets, leaves every
other offset alone, and keeps the canonical form; a `MemRead` of those offsets then gives the bytes back (R8, R36). -/
def Obligations.MemReadAfterMemWrite : Prop :=
  ∀ (s : State) (addr n : Nat) (v : Vector Byte n), addr + n ≤ 176 →
    ∃ m, memWrite s addr n v = .ok m ∧ memRead { s with RK := m } .rk addr n = .ok v ∧
      (∀ a, a < addr ∨ addr + n ≤ a → Memory.read m a = Memory.read s.RK a) ∧
      (Memory.wf s.RK = true → Memory.wf m = true)
end

