-- ==== Sys2Proof/Laws/Flags.lean ====
section
/-! SUPPORT. `busy` by phase, and what the sequencer's registers select. -/

namespace Sys2Proof.Machine

/-- The core is busy in `KEYEXP`, `INITIAL` and `ROUND` (R20). -/
theorem State.busy_iff (s : State) : s.busy = true ↔ s.phase = .keyexp ∨ s.phase = .initial ∨ s.phase = .round := by
  cases h : s.phase <;> simp [State.busy, h]

/-- The core is ready in `IDLE` and `DONE` (R20). -/
theorem State.busy_eq_false_iff (s : State) : s.busy = false ↔ s.phase = .idle ∨ s.phase = .done := by
  cases h : s.phase <;> simp [State.busy, h]

theorem State.busy_congr {s t : State} (h : s.phase = t.phase) : s.busy = t.busy := by simp [State.busy, h]

@[simp] theorem State.busy_setHost (s : State) (rest : List HostEvent) : (s.setHost rest).busy = s.busy := rfl

@[simp] theorem State.busy_setResult (s : State) (r : Result) : (s.setResult r).busy = s.busy := rfl

theorem selected_kxStep (s : State) :
    s.selected = some .kxStep ↔ s.phase = .keyexp ∧ 4 ≤ s.widx.toNat ∧ s.widx.toNat ≤ 43 := by
  unfold State.selected decodeSeq
  repeat' split
  all_goals simp_all

theorem selected_rndInit (s : State) : s.selected = some .rndInit ↔ s.phase = .initial := by
  unfold State.selected decodeSeq
  repeat' split
  all_goals simp_all

theorem selected_rndFull (s : State) : s.selected = some .rndFull ↔ s.phase = .round ∧ s.round.toNat ≤ 8 := by
  unfold State.selected decodeSeq
  repeat' split
  all_goals simp_all

theorem selected_rndFinal (s : State) : s.selected = some .rndFinal ↔ s.phase = .round ∧ s.round.toNat = 9 := by
  unfold State.selected decodeSeq
  repeat' split
  all_goals simp_all
  all_goals omega

theorem selected_rndDone (s : State) : s.selected = some .rndDone ↔ s.phase = .round ∧ s.round.toNat = 10 := by
  unfold State.selected decodeSeq
  repeat' split
  all_goals simp_all
  all_goals omega

/-- Whatever is selected is one of the five sequencer steps (R56). -/
theorem selected_cases {s : State} {i : Instr} (h : s.selected = some i) :
    i = .kxStep ∨ i = .rndInit ∨ i = .rndFull ∨ i = .rndFinal ∨ i = .rndDone := by
  unfold State.selected decodeSeq at h
  repeat' split at h
  all_goals simp_all

/-- A ready core has no step (R113). -/
theorem selected_none_of_ready {s : State} (h : s.busy = false) : s.selected = none := by
  rcases (State.busy_eq_false_iff s).1 h with h | h <;> simp [State.selected, decodeSeq, h]

end Sys2Proof.Machine
end

