-- ==== Sys2Proof/Laws/Memory.lean ====
section
/-! SUPPORT. What the memory operations do: a read after a write, the canonical form kept by every write, and when
`memRead` and `memWrite` answer. -/

namespace Sys2Proof.Machine

@[simp] theorem Memory.read_nil (a : Nat) : Memory.read [] a = none := rfl

/-- A byte read after a write: the byte written, or what was there. -/
theorem Memory.read_write (m : Memory) (a b : Nat) (v : Byte) :
    Memory.read (Memory.write m a v) b = if a = b then some v else Memory.read m b := by
  induction m with
  | nil => simp [Memory.write, Memory.read, Memory.unlisted]
  | cons c m ih =>
    obtain ⟨k, w⟩ := c
    unfold Memory.write
    split
    · simp [Memory.read]
    · split
      · subst_vars
        simp only [Memory.read]
        split <;> simp_all
      · simp only [Memory.read, ih]
        split <;> split <;> simp_all

/-- A byte read after a sequence was written. -/
theorem Memory.read_writeList (vs : List Byte) (m : Memory) (a b : Nat) :
    Memory.read (Memory.writeList m a vs) b =
      if a ≤ b ∧ b < a + vs.length then vs[b - a]? else Memory.read m b := by
  induction vs generalizing m a with
  | nil =>
    have : ¬(a ≤ b ∧ b < a) := by omega
    simp [Memory.writeList, this]
  | cons v vs ih =>
    simp only [Memory.writeList, ih, Memory.read_write, List.length_cons]
    by_cases h : a + 1 ≤ b ∧ b < a + 1 + vs.length
    · have h2 : a ≤ b ∧ b < a + (vs.length + 1) := by omega
      have h3 : b - a = (b - (a + 1)) + 1 := by omega
      simp [h, h2, h3]
    · by_cases h2 : a = b
      · subst h2
        simp
      · have h3 : ¬(a ≤ b ∧ b < a + (vs.length + 1)) := by omega
        rw [if_neg h, if_neg h2, if_neg h3]

theorem Memory.wfFrom_mono {lo lo' : Nat} (h : lo' ≤ lo) {m : Memory} (hm : Memory.wfFrom lo m = true) :
    Memory.wfFrom lo' m = true := by
  cases m with
  | nil => rfl
  | cons c m =>
    simp only [Memory.wfFrom, Bool.and_eq_true, decide_eq_true_eq] at hm ⊢
    exact ⟨⟨h.trans hm.1.1, hm.1.2⟩, hm.2⟩

/-- A write at or above the bound, inside the space, keeps the canonical form above the bound. -/
theorem Memory.write_wfFrom {lo : Nat} {m : Memory} {a : Nat} (hm : Memory.wfFrom lo m = true) (hlo : lo ≤ a)
    (ha : a < Config.NRKBYTES) (v : Byte) : Memory.wfFrom lo (Memory.write m a v) = true := by
  induction m generalizing lo with
  | nil => simp [Memory.write, Memory.wfFrom, hlo, ha]
  | cons c m ih =>
    obtain ⟨k, w⟩ := c
    simp only [Memory.wfFrom, Bool.and_eq_true, decide_eq_true_eq] at hm
    unfold Memory.write
    split
    · simp only [Memory.wfFrom, Bool.and_eq_true, decide_eq_true_eq]
      exact ⟨⟨hlo, ha⟩, ⟨by omega, hm.1.2⟩, hm.2⟩
    · split
      · subst_vars
        simp only [Memory.wfFrom, Bool.and_eq_true, decide_eq_true_eq]
        exact ⟨⟨hlo, ha⟩, hm.2⟩
      · simp only [Memory.wfFrom, Bool.and_eq_true, decide_eq_true_eq]
        exact ⟨hm.1, ih hm.2 (by omega)⟩

/-- Every write inside the space keeps the canonical form of `RK`. -/
theorem Memory.write_wf {m : Memory} {a : Nat} (hm : Memory.wf m = true) (ha : a < Config.NRKBYTES) (v : Byte) :
    Memory.wf (Memory.write m a v) = true :=
  Memory.write_wfFrom hm (Nat.zero_le a) ha v

theorem Memory.writeList_wf (vs : List Byte) {m : Memory} {a : Nat} (hm : Memory.wf m = true)
    (ha : a + vs.length ≤ Config.NRKBYTES) : Memory.wf (Memory.writeList m a vs) = true := by
  induction vs generalizing m a with
  | nil => exact hm
  | cons v vs ih =>
    simp only [List.length_cons] at ha
    exact ih (Memory.write_wf hm (by omega) v) (by omega)

/-- `MemWrite` answers exactly inside the space. -/
theorem memWrite_ok {s : State} {addr n : Nat} {v : Vector Byte n} (h : addr + n ≤ Config.NRKBYTES) :
    memWrite s addr n v = .ok (Memory.writeList s.RK addr v.toList) := by simp [memWrite, h]

/-- What `RK` holds after a `MemWrite`: the sequence at its offsets, everything else as before; and the canonical form is
kept. -/
theorem memWrite_spec {s : State} {addr n : Nat} {v : Vector Byte n} {m : Memory} (h : memWrite s addr n v = .ok m) :
    (∀ (i : Nat) (hi : i < n), Memory.read m (addr + i) = some v[i]) ∧
      (∀ a, ¬(addr ≤ a ∧ a < addr + n) → Memory.read m a = Memory.read s.RK a) ∧
      (Memory.wf s.RK = true → Memory.wf m = true) := by
  unfold memWrite at h
  split at h
  · rename_i hin
    obtain rfl : Memory.writeList s.RK addr v.toList = m := by simpa using h
    refine ⟨fun i hi => ?_, fun a ha => ?_, fun hm => Memory.writeList_wf _ hm (by simpa using hin)⟩
    · rw [Memory.read_writeList]
      simp [hi]
    · rw [Memory.read_writeList]
      simp [ha]
  · simp at h

/-- `MemRead` of `RK` answers the bytes there when each holds a value. -/
theorem memRead_rk_ok {s : State} {addr n : Nat} {v : Vector Byte n} (h : addr + n ≤ Config.NRKBYTES)
    (hv : ∀ (i : Nat) (hi : i < n), Memory.read s.RK (addr + i) = some v[i]) : memRead s .rk addr n = .ok v := by
  have hall : ((List.range n).all fun i => (readByte s .rk (addr + i)).isSome) = true := by
    simp only [List.all_eq_true, List.mem_range, readByte]
    intro i hi
    simp [hv i hi]
  unfold memRead
  rw [if_pos (show addr + n ≤ Space.rk.size from h), if_pos hall]
  congr 1
  ext i hi
  simp [readByte, hv i hi]

/-- What `MemRead` of `RK` says when it answers: every byte of the result stands at its offset. -/
theorem memRead_rk_spec {s : State} {addr n : Nat} {v : Vector Byte n} (h : memRead s .rk addr n = .ok v) :
    addr + n ≤ Config.NRKBYTES ∧ ∀ (i : Nat) (hi : i < n), Memory.read s.RK (addr + i) = some v[i] := by
  unfold memRead at h
  split at h
  · rename_i hin
    refine ⟨hin, fun i hi => ?_⟩
    split at h
    · rename_i hall
      simp only [List.all_eq_true, List.mem_range, readByte, Option.isSome_iff_exists] at hall
      obtain ⟨b, hb⟩ := hall i hi
      obtain rfl := Except.ok.inj h
      simp [readByte, hb]
    · simp at h
  · simp at h

/-- `MemRead(RCON, j, 1)` is the table's entry (R68). -/
theorem memRead_rcon {s : State} {j : Nat} (h : j ≤ 10) : memRead s .rcon j 1 = .ok #v[rcon j] := by
  have hj : j < rconTable.length := by
    have : rconTable.length = 11 := rfl
    omega
  have hs : j + 1 ≤ Space.rcon.size := by
    have : Space.rcon.size = 11 := rfl
    omega
  have hr : (readByte s .rcon j) = some (rcon j) := by
    simp [readByte, rcon, List.getD, List.getElem?_eq_getElem hj]
  unfold memRead
  rw [if_pos hs, if_pos (by simp [hr])]
  simp only [hr, Option.getD_some, Fin.val_eq_zero, Nat.add_zero]
  rfl

theorem sboxTable_length : sboxTable.length = 256 := by
  simp only [sboxTable, List.length_append, List.length_cons, List.length_nil]

/-- `MemRead(SBOX, b, 1)` is the S-box entry of `b` (R66). -/
theorem memRead_sbox (s : State) (b : Byte) : memRead s .sbox b.toNat 1 = .ok #v[sbox b] := by
  have hj : b.toNat < sboxTable.length := by
    have := sboxTable_length
    omega
  have hs : b.toNat + 1 ≤ Space.sbox.size := by
    have : Space.sbox.size = 256 := rfl
    omega
  have hr : (readByte s .sbox b.toNat) = some (sbox b) := by
    simp [readByte, sbox, List.getD, List.getElem?_eq_getElem hj]
  unfold memRead
  rw [if_pos hs, if_pos (by simp [hr])]
  simp only [hr, Option.getD_some, Fin.val_eq_zero, Nat.add_zero]
  rfl

end Sys2Proof.Machine
end

