-- ==== Sys2Proof/Laws/State.lean ====
section
/-! SUPPORT. One lemma per field per update of State (Machine/Ops.lean): what the update leaves in the field. -/

namespace Sys2Proof.Machine

variable (s : State)

@[simp] theorem State.setResult_S (r : Result) : (s.setResult r).S = s.S := rfl
@[simp] theorem State.setResult_RK (r : Result) : (s.setResult r).RK = s.RK := rfl
@[simp] theorem State.setResult_phase (r : Result) : (s.setResult r).phase = s.phase := rfl
@[simp] theorem State.setResult_round (r : Result) : (s.setResult r).round = s.round := rfl
@[simp] theorem State.setResult_widx (r : Result) : (s.setResult r).widx = s.widx := rfl
@[simp] theorem State.setResult_keyValid (r : Result) : (s.setResult r).keyValid = s.keyValid := rfl
@[simp] theorem State.setResult_dout (r : Result) : (s.setResult r).dout = s.dout := rfl
@[simp] theorem State.setResult_doutValid (r : Result) : (s.setResult r).doutValid = s.doutValid := rfl
@[simp] theorem State.setResult_errNokey (r : Result) : (s.setResult r).errNokey = s.errNokey := rfl
@[simp] theorem State.setResult_errBadcmd (r : Result) : (s.setResult r).errBadcmd = s.errBadcmd := rfl
@[simp] theorem State.setResult_host (r : Result) : (s.setResult r).host = s.host := rfl
@[simp] theorem State.setResult_received (r : Result) : (s.setResult r).received = s.received := rfl
@[simp] theorem State.setResult_result (r : Result) : (s.setResult r).result = r := rfl
@[simp] theorem State.setResult_freeCount (r : Result) : (s.setResult r).freeCount = s.freeCount := rfl

@[simp] theorem State.setHost_S (rest : List HostEvent) : (s.setHost rest).S = s.S := rfl
@[simp] theorem State.setHost_RK (rest : List HostEvent) : (s.setHost rest).RK = s.RK := rfl
@[simp] theorem State.setHost_phase (rest : List HostEvent) : (s.setHost rest).phase = s.phase := rfl
@[simp] theorem State.setHost_round (rest : List HostEvent) : (s.setHost rest).round = s.round := rfl
@[simp] theorem State.setHost_widx (rest : List HostEvent) : (s.setHost rest).widx = s.widx := rfl
@[simp] theorem State.setHost_keyValid (rest : List HostEvent) : (s.setHost rest).keyValid = s.keyValid := rfl
@[simp] theorem State.setHost_dout (rest : List HostEvent) : (s.setHost rest).dout = s.dout := rfl
@[simp] theorem State.setHost_doutValid (rest : List HostEvent) : (s.setHost rest).doutValid = s.doutValid := rfl
@[simp] theorem State.setHost_errNokey (rest : List HostEvent) : (s.setHost rest).errNokey = s.errNokey := rfl
@[simp] theorem State.setHost_errBadcmd (rest : List HostEvent) : (s.setHost rest).errBadcmd = s.errBadcmd := rfl
@[simp] theorem State.setHost_host (rest : List HostEvent) : (s.setHost rest).host = rest := rfl
@[simp] theorem State.setHost_received (rest : List HostEvent) : (s.setHost rest).received = s.received := rfl
@[simp] theorem State.setHost_result (rest : List HostEvent) : (s.setHost rest).result = s.result := rfl
@[simp] theorem State.setHost_freeCount (rest : List HostEvent) : (s.setHost rest).freeCount = s.freeCount := rfl

@[simp] theorem State.recordDout_S : s.recordDout.S = s.S := rfl
@[simp] theorem State.recordDout_RK : s.recordDout.RK = s.RK := rfl
@[simp] theorem State.recordDout_phase : s.recordDout.phase = s.phase := rfl
@[simp] theorem State.recordDout_round : s.recordDout.round = s.round := rfl
@[simp] theorem State.recordDout_widx : s.recordDout.widx = s.widx := rfl
@[simp] theorem State.recordDout_keyValid : s.recordDout.keyValid = s.keyValid := rfl
@[simp] theorem State.recordDout_dout : s.recordDout.dout = s.dout := rfl
@[simp] theorem State.recordDout_doutValid : s.recordDout.doutValid = s.doutValid := rfl
@[simp] theorem State.recordDout_errNokey : s.recordDout.errNokey = s.errNokey := rfl
@[simp] theorem State.recordDout_errBadcmd : s.recordDout.errBadcmd = s.errBadcmd := rfl
@[simp] theorem State.recordDout_host : s.recordDout.host = s.host := rfl
@[simp] theorem State.recordDout_received : s.recordDout.received = s.received ++ [s.dout] := rfl
@[simp] theorem State.recordDout_result : s.recordDout.result = s.result := rfl
@[simp] theorem State.recordDout_freeCount : s.recordDout.freeCount = s.freeCount := rfl

@[simp] theorem State.startExpansion_S (rk : Memory) : (s.startExpansion rk).S = s.S := rfl
@[simp] theorem State.startExpansion_RK (rk : Memory) : (s.startExpansion rk).RK = rk := rfl
@[simp] theorem State.startExpansion_phase (rk : Memory) : (s.startExpansion rk).phase = .keyexp := rfl
@[simp] theorem State.startExpansion_round (rk : Memory) : (s.startExpansion rk).round = s.round := rfl
@[simp] theorem State.startExpansion_widx (rk : Memory) : (s.startExpansion rk).widx = 4 := rfl
@[simp] theorem State.startExpansion_keyValid (rk : Memory) : (s.startExpansion rk).keyValid = false := rfl
@[simp] theorem State.startExpansion_dout (rk : Memory) : (s.startExpansion rk).dout = s.dout := rfl
@[simp] theorem State.startExpansion_doutValid (rk : Memory) : (s.startExpansion rk).doutValid = false := rfl
@[simp] theorem State.startExpansion_errNokey (rk : Memory) : (s.startExpansion rk).errNokey = s.errNokey := rfl
@[simp] theorem State.startExpansion_errBadcmd (rk : Memory) : (s.startExpansion rk).errBadcmd = s.errBadcmd := rfl
@[simp] theorem State.startExpansion_host (rk : Memory) : (s.startExpansion rk).host = s.host := rfl
@[simp] theorem State.startExpansion_received (rk : Memory) : (s.startExpansion rk).received = s.received := rfl
@[simp] theorem State.startExpansion_result (rk : Memory) : (s.startExpansion rk).result = s.result := rfl
@[simp] theorem State.startExpansion_freeCount (rk : Memory) : (s.startExpansion rk).freeCount = s.freeCount := rfl

@[simp] theorem State.nextWord_S (rk : Memory) : (s.nextWord rk).S = s.S := rfl
@[simp] theorem State.nextWord_RK (rk : Memory) : (s.nextWord rk).RK = rk := rfl
@[simp] theorem State.nextWord_phase (rk : Memory) : (s.nextWord rk).phase = s.phase := rfl
@[simp] theorem State.nextWord_round (rk : Memory) : (s.nextWord rk).round = s.round := rfl
@[simp] theorem State.nextWord_widx (rk : Memory) : (s.nextWord rk).widx = s.widx + 1 := rfl
@[simp] theorem State.nextWord_keyValid (rk : Memory) : (s.nextWord rk).keyValid = s.keyValid := rfl
@[simp] theorem State.nextWord_dout (rk : Memory) : (s.nextWord rk).dout = s.dout := rfl
@[simp] theorem State.nextWord_doutValid (rk : Memory) : (s.nextWord rk).doutValid = s.doutValid := rfl
@[simp] theorem State.nextWord_errNokey (rk : Memory) : (s.nextWord rk).errNokey = s.errNokey := rfl
@[simp] theorem State.nextWord_errBadcmd (rk : Memory) : (s.nextWord rk).errBadcmd = s.errBadcmd := rfl
@[simp] theorem State.nextWord_host (rk : Memory) : (s.nextWord rk).host = s.host := rfl
@[simp] theorem State.nextWord_received (rk : Memory) : (s.nextWord rk).received = s.received := rfl
@[simp] theorem State.nextWord_result (rk : Memory) : (s.nextWord rk).result = s.result := rfl
@[simp] theorem State.nextWord_freeCount (rk : Memory) : (s.nextWord rk).freeCount = s.freeCount := rfl

@[simp] theorem State.finishExpansion_S (rk : Memory) : (s.finishExpansion rk).S = s.S := rfl
@[simp] theorem State.finishExpansion_RK (rk : Memory) : (s.finishExpansion rk).RK = rk := rfl
@[simp] theorem State.finishExpansion_phase (rk : Memory) : (s.finishExpansion rk).phase = .idle := rfl
@[simp] theorem State.finishExpansion_round (rk : Memory) : (s.finishExpansion rk).round = s.round := rfl
@[simp] theorem State.finishExpansion_widx (rk : Memory) : (s.finishExpansion rk).widx = Config.freeWidx s.freeCount := rfl
@[simp] theorem State.finishExpansion_keyValid (rk : Memory) : (s.finishExpansion rk).keyValid = true := rfl
@[simp] theorem State.finishExpansion_dout (rk : Memory) : (s.finishExpansion rk).dout = s.dout := rfl
@[simp] theorem State.finishExpansion_doutValid (rk : Memory) : (s.finishExpansion rk).doutValid = s.doutValid := rfl
@[simp] theorem State.finishExpansion_errNokey (rk : Memory) : (s.finishExpansion rk).errNokey = s.errNokey := rfl
@[simp] theorem State.finishExpansion_errBadcmd (rk : Memory) : (s.finishExpansion rk).errBadcmd = s.errBadcmd := rfl
@[simp] theorem State.finishExpansion_host (rk : Memory) : (s.finishExpansion rk).host = s.host := rfl
@[simp] theorem State.finishExpansion_received (rk : Memory) : (s.finishExpansion rk).received = s.received := rfl
@[simp] theorem State.finishExpansion_result (rk : Memory) : (s.finishExpansion rk).result = s.result := rfl
@[simp] theorem State.finishExpansion_freeCount (rk : Memory) : (s.finishExpansion rk).freeCount = s.freeCount + 1 := rfl

@[simp] theorem State.startBlock_S (b : Block) : (s.startBlock b).S = b := rfl
@[simp] theorem State.startBlock_RK (b : Block) : (s.startBlock b).RK = s.RK := rfl
@[simp] theorem State.startBlock_phase (b : Block) : (s.startBlock b).phase = .initial := rfl
@[simp] theorem State.startBlock_round (b : Block) : (s.startBlock b).round = s.round := rfl
@[simp] theorem State.startBlock_widx (b : Block) : (s.startBlock b).widx = s.widx := rfl
@[simp] theorem State.startBlock_keyValid (b : Block) : (s.startBlock b).keyValid = s.keyValid := rfl
@[simp] theorem State.startBlock_dout (b : Block) : (s.startBlock b).dout = s.dout := rfl
@[simp] theorem State.startBlock_doutValid (b : Block) : (s.startBlock b).doutValid = false := rfl
@[simp] theorem State.startBlock_errNokey (b : Block) : (s.startBlock b).errNokey = s.errNokey := rfl
@[simp] theorem State.startBlock_errBadcmd (b : Block) : (s.startBlock b).errBadcmd = s.errBadcmd := rfl
@[simp] theorem State.startBlock_host (b : Block) : (s.startBlock b).host = s.host := rfl
@[simp] theorem State.startBlock_received (b : Block) : (s.startBlock b).received = s.received := rfl
@[simp] theorem State.startBlock_result (b : Block) : (s.startBlock b).result = s.result := rfl
@[simp] theorem State.startBlock_freeCount (b : Block) : (s.startBlock b).freeCount = s.freeCount := rfl

@[simp] theorem State.enterRound_S (b : Block) (r : BitVec 4) : (s.enterRound b r).S = b := rfl
@[simp] theorem State.enterRound_RK (b : Block) (r : BitVec 4) : (s.enterRound b r).RK = s.RK := rfl
@[simp] theorem State.enterRound_phase (b : Block) (r : BitVec 4) : (s.enterRound b r).phase = .round := rfl
@[simp] theorem State.enterRound_round (b : Block) (r : BitVec 4) : (s.enterRound b r).round = r := rfl
@[simp] theorem State.enterRound_widx (b : Block) (r : BitVec 4) : (s.enterRound b r).widx = s.widx := rfl
@[simp] theorem State.enterRound_keyValid (b : Block) (r : BitVec 4) : (s.enterRound b r).keyValid = s.keyValid := rfl
@[simp] theorem State.enterRound_dout (b : Block) (r : BitVec 4) : (s.enterRound b r).dout = s.dout := rfl
@[simp] theorem State.enterRound_doutValid (b : Block) (r : BitVec 4) : (s.enterRound b r).doutValid = s.doutValid := rfl
@[simp] theorem State.enterRound_errNokey (b : Block) (r : BitVec 4) : (s.enterRound b r).errNokey = s.errNokey := rfl
@[simp] theorem State.enterRound_errBadcmd (b : Block) (r : BitVec 4) : (s.enterRound b r).errBadcmd = s.errBadcmd := rfl
@[simp] theorem State.enterRound_host (b : Block) (r : BitVec 4) : (s.enterRound b r).host = s.host := rfl
@[simp] theorem State.enterRound_received (b : Block) (r : BitVec 4) : (s.enterRound b r).received = s.received := rfl
@[simp] theorem State.enterRound_result (b : Block) (r : BitVec 4) : (s.enterRound b r).result = s.result := rfl
@[simp] theorem State.enterRound_freeCount (b : Block) (r : BitVec 4) : (s.enterRound b r).freeCount = s.freeCount := rfl

@[simp] theorem State.finishBlock_S (v : Packed) : (s.finishBlock v).S = s.S := rfl
@[simp] theorem State.finishBlock_RK (v : Packed) : (s.finishBlock v).RK = s.RK := rfl
@[simp] theorem State.finishBlock_phase (v : Packed) : (s.finishBlock v).phase = .done := rfl
@[simp] theorem State.finishBlock_round (v : Packed) : (s.finishBlock v).round = s.round := rfl
@[simp] theorem State.finishBlock_widx (v : Packed) : (s.finishBlock v).widx = s.widx := rfl
@[simp] theorem State.finishBlock_keyValid (v : Packed) : (s.finishBlock v).keyValid = s.keyValid := rfl
@[simp] theorem State.finishBlock_dout (v : Packed) : (s.finishBlock v).dout = v := rfl
@[simp] theorem State.finishBlock_doutValid (v : Packed) : (s.finishBlock v).doutValid = true := rfl
@[simp] theorem State.finishBlock_errNokey (v : Packed) : (s.finishBlock v).errNokey = s.errNokey := rfl
@[simp] theorem State.finishBlock_errBadcmd (v : Packed) : (s.finishBlock v).errBadcmd = s.errBadcmd := rfl
@[simp] theorem State.finishBlock_host (v : Packed) : (s.finishBlock v).host = s.host := rfl
@[simp] theorem State.finishBlock_received (v : Packed) : (s.finishBlock v).received = s.received := rfl
@[simp] theorem State.finishBlock_result (v : Packed) : (s.finishBlock v).result = s.result := rfl
@[simp] theorem State.finishBlock_freeCount (v : Packed) : (s.finishBlock v).freeCount = s.freeCount := rfl

@[simp] theorem State.takeReset_S : s.takeReset.S = Config.freeS s.freeCount := rfl
@[simp] theorem State.takeReset_RK : s.takeReset.RK = [] := rfl
@[simp] theorem State.takeReset_phase : s.takeReset.phase = .idle := rfl
@[simp] theorem State.takeReset_round : s.takeReset.round = Config.freeRound s.freeCount := rfl
@[simp] theorem State.takeReset_widx : s.takeReset.widx = Config.freeWidx s.freeCount := rfl
@[simp] theorem State.takeReset_keyValid : s.takeReset.keyValid = false := rfl
@[simp] theorem State.takeReset_dout : s.takeReset.dout = Config.freeDout s.freeCount := rfl
@[simp] theorem State.takeReset_doutValid : s.takeReset.doutValid = false := rfl
@[simp] theorem State.takeReset_errNokey : s.takeReset.errNokey = false := rfl
@[simp] theorem State.takeReset_errBadcmd : s.takeReset.errBadcmd = false := rfl
@[simp] theorem State.takeReset_host : s.takeReset.host = s.host := rfl
@[simp] theorem State.takeReset_received : s.takeReset.received = s.received := rfl
@[simp] theorem State.takeReset_result : s.takeReset.result = s.result := rfl
@[simp] theorem State.takeReset_freeCount : s.takeReset.freeCount = s.freeCount + 1 := rfl

@[simp] theorem State.raise_S (e : ErrorCause) : (s.raise e).S = s.S := by cases e <;> rfl
@[simp] theorem State.raise_RK (e : ErrorCause) : (s.raise e).RK = s.RK := by cases e <;> rfl
@[simp] theorem State.raise_phase (e : ErrorCause) : (s.raise e).phase = s.phase := by cases e <;> rfl
@[simp] theorem State.raise_round (e : ErrorCause) : (s.raise e).round = s.round := by cases e <;> rfl
@[simp] theorem State.raise_widx (e : ErrorCause) : (s.raise e).widx = s.widx := by cases e <;> rfl
@[simp] theorem State.raise_keyValid (e : ErrorCause) : (s.raise e).keyValid = s.keyValid := by cases e <;> rfl
@[simp] theorem State.raise_dout (e : ErrorCause) : (s.raise e).dout = s.dout := by cases e <;> rfl
@[simp] theorem State.raise_doutValid (e : ErrorCause) : (s.raise e).doutValid = s.doutValid := by cases e <;> rfl
@[simp] theorem State.raise_host (e : ErrorCause) : (s.raise e).host = s.host := by cases e <;> rfl
@[simp] theorem State.raise_received (e : ErrorCause) : (s.raise e).received = s.received := by cases e <;> rfl
@[simp] theorem State.raise_freeCount (e : ErrorCause) : (s.raise e).freeCount = s.freeCount := by cases e <;> rfl
@[simp] theorem State.raise_noKey_errNokey : (s.raise .noKey).errNokey = true := rfl
@[simp] theorem State.raise_noKey_errBadcmd : (s.raise .noKey).errBadcmd = s.errBadcmd := rfl
@[simp] theorem State.raise_noKey_result : (s.raise .noKey).result = s.result := rfl
@[simp] theorem State.raise_reservedCommand_errNokey : (s.raise .reservedCommand).errNokey = s.errNokey := rfl
@[simp] theorem State.raise_reservedCommand_errBadcmd : (s.raise .reservedCommand).errBadcmd = true := rfl
@[simp] theorem State.raise_reservedCommand_result : (s.raise .reservedCommand).result = s.result := rfl
@[simp] theorem State.raise_invalidKeyLength_errNokey : (s.raise .invalidKeyLength).errNokey = s.errNokey := rfl
@[simp] theorem State.raise_invalidKeyLength_errBadcmd : (s.raise .invalidKeyLength).errBadcmd = s.errBadcmd := rfl
@[simp] theorem State.raise_invalidKeyLength_result : (s.raise .invalidKeyLength).result = .error .invalidKeyLength := rfl
@[simp] theorem State.raise_invalidBlockLength_errNokey : (s.raise .invalidBlockLength).errNokey = s.errNokey := rfl
@[simp] theorem State.raise_invalidBlockLength_errBadcmd : (s.raise .invalidBlockLength).errBadcmd = s.errBadcmd := rfl
@[simp] theorem State.raise_invalidBlockLength_result : (s.raise .invalidBlockLength).result = .error .invalidBlockLength := rfl

end Sys2Proof.Machine
end

