-- ==== Sys2Proof/Laws/Sequencer.lean ====
section
/-! SUPPORT. What a sequencer step, a command and the core's turn did, when they answer a next state: one inversion lemma
each, so that no proof unfolds the meanings again. -/

namespace Sys2Proof.Machine

theorem andThen_next {o : Out} {f : State → Out} {t : State} :
    andThen o f = .next t ↔ ∃ s, o = .next s ∧ f s = .next t := by
  cases o <;> simp [andThen]

/-- Reading a round key whose bytes `RK` holds. -/
theorem withRoundKey_ok {s : State} {g : Nat} {f : Block → State} {k : Block} (hg : g ≤ 10)
    (hk : ∀ (n : Nat) (hn : n < 16), Memory.read s.RK (16 * g + n) = some k[n]) :
    withRoundKey s g f = .next (f k) := by
  have hin : 16 * g + 16 ≤ Config.NRKBYTES := by
    have : Config.NRKBYTES = 176 := rfl
    omega
  simp [withRoundKey, memRead_rk_ok hin hk]

theorem withRoundKey_next {s t : State} {g : Nat} {f : Block → State} (h : withRoundKey s g f = .next t) :
    ∃ k : Block, (∀ (n : Nat) (hn : n < 16), Memory.read s.RK (16 * g + n) = some k[n]) ∧ t = f k := by
  unfold withRoundKey at h
  split at h
  · rename_i k hk
    exact ⟨k, (memRead_rk_spec hk).2, by simpa using h.symm⟩
  · simp at h

/-- What `KX.STEP` did (R111). -/
theorem execKxStep_next {s t : State} (h : execKxStep s = .next t) :
    s.phase = .keyexp ∧ 4 ≤ s.widx.toNat ∧ s.widx.toNat ≤ 43 ∧
      ∃ (p q : Word) (rk : Memory),
        (∀ (j : Nat) (hj : j < 4), Memory.read s.RK (4 * (s.widx.toNat - 1) + j) = some p[j]) ∧
        (∀ (j : Nat) (hj : j < 4), Memory.read s.RK (4 * (s.widx.toNat - 4) + j) = some q[j]) ∧
        memWrite s (4 * s.widx.toNat) 4 (kexpWord s.widx.toNat p q) = .ok rk ∧
        ((s.widx.toNat < 43 ∧ t = s.nextWord rk) ∨ (s.widx.toNat = 43 ∧ t = s.finishExpansion rk)) := by
  unfold execKxStep at h
  split at h
  · rename_i hsel
    obtain ⟨h1, h2, h3⟩ := (selected_kxStep s).1 hsel
    refine ⟨h1, h2, h3, ?_⟩
    split at h
    · rename_i p q hp hq
      split at h
      · rename_i rk hrk
        refine ⟨p, q, rk, (memRead_rk_spec hp).2, (memRead_rk_spec hq).2, hrk, ?_⟩
        split at h
        · exact .inl ⟨‹_›, by simpa using h.symm⟩
        · exact .inr ⟨by omega, by simpa using h.symm⟩
      · simp at h
    · simp at h
    · simp at h
  · simp at h

/-- What `RND.INIT` did (R107). -/
theorem execRndInit_next {s t : State} (h : execRndInit s = .next t) :
    s.phase = .initial ∧ ∃ k : Block, (∀ (n : Nat) (hn : n < 16), Memory.read s.RK n = some k[n]) ∧
      t = s.enterRound (xorBlock s.S k) 0 := by
  unfold execRndInit at h
  split at h
  · rename_i hsel
    obtain ⟨k, hk, rfl⟩ := withRoundKey_next h
    exact ⟨(selected_rndInit s).1 hsel, k, by simpa using hk, rfl⟩
  · simp at h

/-- What `RND.FULL` did (R108). -/
theorem execRndFull_next {s t : State} (h : execRndFull s = .next t) :
    s.phase = .round ∧ s.round.toNat ≤ 8 ∧
      ∃ k : Block, (∀ (n : Nat) (hn : n < 16), Memory.read s.RK (16 * (s.round.toNat + 1) + n) = some k[n]) ∧
        t = s.enterRound (fullRoundWith s.S k) (s.round + 1) := by
  unfold execRndFull at h
  split at h
  · rename_i hsel
    obtain ⟨k, hk, rfl⟩ := withRoundKey_next h
    exact ⟨((selected_rndFull s).1 hsel).1, ((selected_rndFull s).1 hsel).2, k, hk, rfl⟩
  · simp at h

/-- What `RND.FINAL` did (R109). -/
theorem execRndFinal_next {s t : State} (h : execRndFinal s = .next t) :
    s.phase = .round ∧ s.round.toNat = 9 ∧
      ∃ k : Block, (∀ (n : Nat) (hn : n < 16), Memory.read s.RK (160 + n) = some k[n]) ∧
        t = s.enterRound (finalRoundWith s.S k) 10 := by
  unfold execRndFinal at h
  split at h
  · rename_i hsel
    obtain ⟨k, hk, rfl⟩ := withRoundKey_next h
    exact ⟨((selected_rndFinal s).1 hsel).1, ((selected_rndFinal s).1 hsel).2, k, by simpa using hk, rfl⟩
  · simp at h

/-- What `RND.DONE` did (R110). -/
theorem execRndDone_next {s t : State} (h : execRndDone s = .next t) :
    s.phase = .round ∧ s.round.toNat = 10 ∧ t = s.finishBlock (pack s.S) := by
  unfold execRndDone at h
  split at h
  · rename_i hsel
    exact ⟨((selected_rndDone s).1 hsel).1, ((selected_rndDone s).1 hsel).2, by simpa using h.symm⟩
  · simp at h

/-- A selected step means the same to a host procedure and to `exec`. -/
theorem execSeq_eq_exec {s : State} {i : Instr} (h : s.selected = some i) (u : State) : execSeq i u = exec i u := by
  rcases selected_cases h with rfl | rfl | rfl | rfl | rfl <;> rfl

theorem coreTurn_execSeq (s : State) : coreTurn execSeq s = coreTurn exec s := by
  unfold coreTurn
  split
  · exact execSeq_eq_exec ‹_› s
  · rfl

/-- What the core's turn did (R113). -/
theorem coreTurn_next {s t : State} (h : coreTurn exec s = .next t) :
    (∃ i, s.selected = some i ∧ exec i s = .next t) ∨ (s.busy = false ∧ t = s) := by
  unfold coreTurn at h
  split at h
  · exact .inl ⟨_, ‹_›, h⟩
  · split at h
    · simp at h
    · exact .inr ⟨by simpa using ‹¬s.busy = true›, by simpa using h.symm⟩

/-- A ready core stays in its turn (R113). -/
theorem coreTurn_of_ready {s : State} (h : s.busy = false) : coreTurn exec s = .next s := by
  simp [coreTurn, selected_none_of_ready h, h]

/-- A command's meaning while the core is busy, and while it is ready (R120). -/
theorem accept_busy {s : State} (h : s.busy = true) (e : Out) : accept s e = .next s := by simp [accept, h]

theorem accept_ready {s : State} (h : s.busy = false) (e : Out) : accept s e = e := by simp [accept, h]

/-- What `LOADKEY` did (R120, R122). -/
theorem execLoadkey_next {v : Packed} {s t : State} (h : execLoadkey v s = .next t) :
    (s.busy = true ∧ t = s) ∨
      (s.busy = false ∧ ∃ rk, memWrite s 0 16 (unpackKey v) = .ok rk ∧ t = s.startExpansion rk) := by
  unfold execLoadkey at h
  cases hb : s.busy
  · rw [accept_ready hb] at h
    split at h
    · exact .inr ⟨rfl, _, ‹_›, by simpa using h.symm⟩
    · simp at h
  · rw [accept_busy hb] at h
    exact .inl ⟨rfl, by simpa using h.symm⟩

/-- What `ENCRYPT` did (R120, R123, R138). -/
theorem execEncrypt_next {v : Packed} {s t : State} (h : execEncrypt v s = .next t) :
    (s.busy = true ∧ t = s) ∨ (s.busy = false ∧ s.keyValid = true ∧ t = s.startBlock (unpack v)) ∨
      (s.busy = false ∧ s.keyValid = false ∧ t = s.raise .noKey) := by
  unfold execEncrypt at h
  cases hb : s.busy
  · rw [accept_ready hb] at h
    cases hk : s.keyValid <;> simp [hk] at h
    · exact .inr (.inr ⟨rfl, rfl, h.symm⟩)
    · exact .inr (.inl ⟨rfl, rfl, h.symm⟩)
  · rw [accept_busy hb] at h
    exact .inl ⟨rfl, by simpa using h.symm⟩

/-- What `RSVD` did (R120, R139). -/
theorem execRsvd_next (v : Packed) {s t : State} (h : execRsvd v s = .next t) :
    (s.busy = true ∧ t = s) ∨ (s.busy = false ∧ t = s.raise .reservedCommand) := by
  unfold execRsvd at h
  cases hb : s.busy
  · rw [accept_ready hb] at h
    exact .inr ⟨rfl, by simpa using h.symm⟩
  · rw [accept_busy hb] at h
    exact .inl ⟨rfl, by simpa using h.symm⟩

end Sys2Proof.Machine
end

