-- ==== Sys2Proof/Laws/Batch.lean ====
section
/-! SUPPORT. What the host procedures' waiting and looping do: each keeps whatever the core's turns and the commands keep. -/

namespace Sys2Proof.Machine

/-- Waiting on a ready core ends at once (R126). -/
theorem waitReady_of_ready (n : Nat) {s : State} (h : s.busy = false) : waitReady n s = .next s := by
  cases n <;> simp [waitReady, h]

/-- Waiting on a busy core is the core's turn, then waiting (R126). -/
theorem waitReady_of_busy (n : Nat) {s : State} (h : s.busy = true) :
    waitReady (n + 1) s = andThen (coreTurn exec s) (waitReady n) := by
  simp [waitReady, h, coreTurn_execSeq]

/-- A wait that ended left the core ready, and kept what every turn of a busy core keeps. -/
theorem waitReady_next {Q : State → Prop} (hturn : ∀ s t, s.busy = true → Q s → coreTurn exec s = .next t → Q t)
    {n : Nat} {s t : State} (h : waitReady n s = .next t) (hs : Q s) : t.busy = false ∧ Q t := by
  induction n generalizing s with
  | zero =>
    cases hb : s.busy
    · rw [waitReady_of_ready 0 hb] at h
      cases h
      exact ⟨hb, hs⟩
    · simp [waitReady, hb] at h
  | succ n ih =>
    cases hb : s.busy
    · rw [waitReady_of_ready (n + 1) hb] at h
      cases h
      exact ⟨hb, hs⟩
    · rw [waitReady_of_busy n hb] at h
      obtain ⟨u, hu, hut⟩ := andThen_next.1 h
      exact ih hut (hturn s u hb hs hu)

/-- A loop over the blocks that ended kept what its commands, the core's turns and the return of a value keep (R126). -/
theorem batchLoop_next {Q : State → Prop} (hturn : ∀ s t, s.busy = true → Q s → coreTurn exec s = .next t → Q t)
    (henc : ∀ v s t, Q s → execEncrypt v s = .next t → Q t) (hres : ∀ s r, Q s → Q (s.setResult r))
    {ret : List Packed → Result} {vs c : List Packed} {s t : State} (h : batchLoop ret vs c s = .next t) (hs : Q s) :
    Q t := by
  induction vs generalizing c s with
  | nil =>
    simp only [batchLoop] at h
    cases h
    exact hres s _ hs
  | cons v vs ih =>
    rw [batchLoop] at h
    obtain ⟨s1, h1, h⟩ := andThen_next.1 h
    obtain ⟨s2, h2, h⟩ := andThen_next.1 h
    split at h
    · exact ih h (waitReady_next hturn h2 (henc v s s1 hs h1)).2
    · simp at h

/-- A run of a host procedure that ended kept what its commands, the core's turns and the return of a value keep (R126). -/
theorem runBatch_next {Q : State → Prop} (hturn : ∀ s t, s.busy = true → Q s → coreTurn exec s = .next t → Q t)
    (hload : ∀ k s t, Q s → execLoadkey k s = .next t → Q t) (henc : ∀ v s t, Q s → execEncrypt v s = .next t → Q t)
    (hres : ∀ s r, Q s → Q (s.setResult r)) {k : Packed} {vs : List Packed} {ret : List Packed → Result} {s t : State}
    (h : runBatch k vs ret s = .next t) (hs : Q s) : Q t := by
  rw [runBatch] at h
  obtain ⟨s1, h1, h⟩ := andThen_next.1 h
  obtain ⟨s2, h2, h⟩ := andThen_next.1 h
  obtain ⟨s3, h3, h⟩ := andThen_next.1 h
  exact batchLoop_next hturn henc hres h
    (waitReady_next hturn h3 (hload k s1 s2 (waitReady_next hturn h1 hs).2 h2)).2

/-- What `EncryptBlocks` did: it reported one of its two errors, or ran the batch (R127, R136, R137). -/
theorem execEncryptblocks_next {key : List Byte} {blocks : List (List Byte)} {s t : State}
    (h : execEncryptblocks key blocks s = .next t) :
    (key.length ≠ 16 ∧ t = s.raise .invalidKeyLength) ∨
      (key.length = 16 ∧ (∃ b ∈ blocks, b.length ≠ 16) ∧ t = s.raise .invalidBlockLength) ∨
      (key.length = 16 ∧ (∀ b ∈ blocks, b.length = 16) ∧
        runBatch (toWire (blockOfBytes key)) (blocks.map fun b => toWire (blockOfBytes b))
          (fun c => .byteBlocks (c.map fromWire)) s = .next t) := by
  unfold execEncryptblocks at h
  split at h
  · cases h
    exact .inl ⟨‹_›, rfl⟩
  · rename_i hk
    split at h
    · rename_i hb
      cases h
      exact .inr (.inl ⟨by simpa using hk, by simpa using hb, rfl⟩)
    · rename_i hb
      exact .inr (.inr ⟨by simpa using hk, by simpa using hb, h⟩)

end Sys2Proof.Machine
end

