-- ==== Sys2Proof/Laws/Blocks.lean ====
section
/-! SUPPORT. One lemma per function on blocks: what stands at index `n` of its result. -/

namespace Sys2Proof

theorem block_getD (s : Block) {n : Nat} (h : n < 16) : s.toList.getD n 0 = s[n] := by
  simp [List.getD, h]

theorem block_at (s : Block) {r c : Nat} (h : 4 * c + r < 16) : Block.at s r c = s[4 * c + r] := block_getD s h

theorem xorBlock_get (s k : Block) {n : Nat} (h : n < 16) : (xorBlock s k)[n] = s[n] ^^^ k[n] := by
  simp [xorBlock]

theorem roundKey_get (r : Schedule) (g : Nat) {n : Nat} (h : n < 16) :
    (roundKey r g)[n] = Schedule.byteAt r (16 * g + n) := by simp [roundKey]

theorem addRoundKey_get (g : Nat) (s : Block) (r : Schedule) {n : Nat} (h : n < 16) :
    (addRoundKey g s r)[n] = s[n] ^^^ Schedule.byteAt r (16 * g + n) := by
  rw [addRoundKey, xorBlock_get _ _ h, roundKey_get _ _ h]

theorem subBytes_get (s : Block) {n : Nat} (h : n < 16) : (subBytes s)[n] = sbox s[n] := by simp [subBytes]

theorem shiftRows_get (s : Block) {n : Nat} (h : n < 16) :
    (shiftRows s)[n] = Block.at s (n % 4) ((n / 4 + n % 4) % 4) := by simp [shiftRows]

theorem unpack_get (v : Packed) {n : Nat} (h : n < 16) : (unpack v)[n] = ext v (swapIndex n) := by simp [unpack]

theorem unpackKey_get (v : Packed) {n : Nat} (h : n < 16) :
    (unpackKey v)[n] = ext v (4 * (3 - n / 4) + n % 4) := by simp [unpackKey]

/-- `ext` reads back the bytes a packed value is made of. -/
theorem ext_ofBytes (byte : Nat → Byte) {i : Nat} (h : i < 16) : ext (ofBytes byte) i = byte i := by
  apply BitVec.eq_of_getLsbD_eq
  intro j hj
  rw [ext, BitVec.getLsbD_extractLsb', decide_eq_true hj, Bool.true_and]
  unfold ofBytes
  repeat rw [BitVec.getLsbD_append]
  interval_cases i <;> interval_cases j <;> rfl

theorem blockOfBytes_get (bs : List Byte) {n : Nat} (h : n < 16) : (blockOfBytes bs)[n] = bs.getD n 0 := by
  simp [blockOfBytes]

/-- Two blocks with the same bytes are the same. -/
theorem block_ext {s t : Block} (h : ∀ (n : Nat) (hn : n < 16), s[n] = t[n]) : s = t := Vector.ext h

end Sys2Proof
end

