-- ==== Sys2Proof/Laws/PerInstr.lean ====
section
/-! SUPPORT. One lemma per instruction: an instruction that has a word has the command code of R51 in it, and is well
formed; every other instruction has no word (R56, R57). -/

namespace Sys2Proof.Laws.CommandCode

/-- The command code the table gives an instruction (R51); the rest have none. -/
def code : Instr → Option (BitVec 2)
  | .nop _ => some 0b00#2
  | .loadkey _ => some 0b01#2
  | .encrypt _ => some 0b10#2
  | .rsvd _ => some 0b11#2
  | .kxStep => none
  | .rndInit => none
  | .rndFull => none
  | .rndFinal => none
  | .rndDone => none
  | .sbox _ => none
  | .rcon _ => none
  | .xtime _ => none
  | .rotword _ => none
  | .subword _ => none
  | .kexpword _ _ _ => none
  | .expandkey _ => none
  | .addroundkey _ _ _ => none
  | .subbytes _ => none
  | .shiftrows _ => none
  | .mixcolumns _ => none
  | .unpack _ => none
  | .pack _ => none
  | .unpackkey _ => none
  | .cipher _ _ => none
  | .encryptblockshw _ _ => none
  | .encryptblocks _ _ => none

/-- A word of the instruction carries its code and no ill-formed operand. -/
def Statement (i : Instr) : Prop :=
  ((encode i).map cmdField = code i) ∧ ((encode i).isSome = true → i.wellFormed = true)

theorem cmdField_commandWord (c : BitVec 2) (d : Packed) : cmdField (commandWord c d) = c := by
  apply BitVec.eq_of_getLsbD_eq
  intro j hj
  simp only [cmdField, commandWord, BitVec.getLsbD_extractLsb', BitVec.getLsbD_append]
  simp [hj]

theorem nop (din : Packed) : Statement (.nop din) := ⟨congrArg some (cmdField_commandWord _ _), fun _ => rfl⟩

theorem loadkey (din : Packed) : Statement (.loadkey din) := ⟨congrArg some (cmdField_commandWord _ _), fun _ => rfl⟩

theorem encrypt (din : Packed) : Statement (.encrypt din) := ⟨congrArg some (cmdField_commandWord _ _), fun _ => rfl⟩

theorem rsvd (din : Packed) : Statement (.rsvd din) := ⟨congrArg some (cmdField_commandWord _ _), fun _ => rfl⟩

theorem kxStep : Statement .kxStep := ⟨rfl, by simp [encode]⟩

theorem rndInit : Statement .rndInit := ⟨rfl, by simp [encode]⟩

theorem rndFull : Statement .rndFull := ⟨rfl, by simp [encode]⟩

theorem rndFinal : Statement .rndFinal := ⟨rfl, by simp [encode]⟩

theorem rndDone : Statement .rndDone := ⟨rfl, by simp [encode]⟩

theorem sbox (b : Byte) : Statement (.sbox b) := ⟨rfl, by simp [encode]⟩

theorem rcon (j : Nat) : Statement (.rcon j) := ⟨rfl, by simp [encode]⟩

theorem xtime (b : Byte) : Statement (.xtime b) := ⟨rfl, by simp [encode]⟩

theorem rotword (t : Word) : Statement (.rotword t) := ⟨rfl, by simp [encode]⟩

theorem subword (t : Word) : Statement (.subword t) := ⟨rfl, by simp [encode]⟩

theorem kexpword (i : Nat) (p q : Word) : Statement (.kexpword i p q) := ⟨rfl, by simp [encode]⟩

theorem expandkey (k : Block) : Statement (.expandkey k) := ⟨rfl, by simp [encode]⟩

theorem addroundkey (g : Nat) (st : Block) (r : Schedule) : Statement (.addroundkey g st r) := ⟨rfl, by simp [encode]⟩

theorem subbytes (st : Block) : Statement (.subbytes st) := ⟨rfl, by simp [encode]⟩

theorem shiftrows (st : Block) : Statement (.shiftrows st) := ⟨rfl, by simp [encode]⟩

theorem mixcolumns (st : Block) : Statement (.mixcolumns st) := ⟨rfl, by simp [encode]⟩

theorem unpack (v : Packed) : Statement (.unpack v) := ⟨rfl, by simp [encode]⟩

theorem pack (st : Block) : Statement (.pack st) := ⟨rfl, by simp [encode]⟩

theorem unpackkey (v : Packed) : Statement (.unpackkey v) := ⟨rfl, by simp [encode]⟩

theorem cipher (st : Block) (r : Schedule) : Statement (.cipher st r) := ⟨rfl, by simp [encode]⟩

theorem encryptblockshw (k : Packed) (vs : List Packed) : Statement (.encryptblockshw k vs) := ⟨rfl, by simp [encode]⟩

theorem encryptblocks (key : List Byte) (blocks : List (List Byte)) : Statement (.encryptblocks key blocks) := ⟨rfl, by simp [encode]⟩

end Sys2Proof.Laws.CommandCode
end

