-- ==== Sys2Proof/Laws/Safety.lean ====
section
/-! SUPPORT. What the end of a run says and rules out (R165). -/

namespace Sys2Proof.Machine

/-- A busy state is never the end of a run: the core still has a step. -/
theorem State.not_runOver_of_busy {t : State} (h : t.busy = true) (n : Nat) (read : List Packed) : ¬t.runOver n read :=
  fun hr => by simp [State.runOver, State.ready, h] at hr

/-- A run over blocks is not over before the host has read all of them. -/
theorem State.not_runOver_of_unread {t : State} {n : Nat} {read : List Packed} (h : read.length < n) :
    ¬t.runOver n read := fun hr => Nat.ne_of_lt h hr.2.1

/-- A state with an error flag set is not a successful end. -/
theorem State.not_successfulEnd_of_error {t : State} (h : t.errNokey = true ∨ t.errBadcmd = true) (n : Nat)
    (read : List Packed) : ¬t.successfulEnd n read := fun hs => by
  rcases h with h | h <;> simp [State.successfulEnd, State.noError, h] at hs

/-- A turn in which the host reads `dout` adds it to what a run from `s` has read. -/
theorem State.readSince_recordDout {s t : State} (h : s.received.length ≤ t.received.length) :
    t.recordDout.readSince s = t.readSince s ++ [t.dout] := by
  simp [State.readSince, State.recordDout, List.drop_append_of_le_length h]

/-- A run starts with nothing read. -/
theorem State.readSince_self (s : State) : s.readSince s = [] := by simp [State.readSince]

end Sys2Proof.Machine
end

