-- ==== Sys2Proof/Laws/Schedule.lean ====
section
/-! SUPPORT. Reading a schedule: its bytes and words, what replacing a word does, and that the expansion never changes a word
it has computed. -/

namespace Sys2Proof

theorem Schedule.byteAt_eq (r : Schedule) {a : Nat} (h : a < 176) : Schedule.byteAt r a = r[a] := by
  simp [Schedule.byteAt, List.getD, h]

theorem Schedule.ext_byteAt {r r' : Schedule} (h : ∀ a, a < 176 → Schedule.byteAt r a = Schedule.byteAt r' a) : r = r' := by
  refine Vector.ext fun a ha => ?_
  simpa only [Schedule.byteAt_eq _ ha] using h a ha

/-- Byte `j` of word `i`. -/
theorem Schedule.wordAt_get (r : Schedule) (i : Nat) {j : Nat} (hj : j < 4) :
    (Schedule.wordAt r i)[j] = Schedule.byteAt r (4 * i + j) := by
  match j, hj with
  | 0, _ => rfl
  | 1, _ => rfl
  | 2, _ => rfl
  | 3, _ => rfl

/-- A byte after word `i` was replaced. -/
theorem Schedule.byteAt_setWord (r : Schedule) (i : Nat) (w : Word) {a : Nat} (ha : a < 176) :
    Schedule.byteAt (Schedule.setWord r i w) a =
      if a / 4 = i then w.toList.getD (a % 4) 0 else Schedule.byteAt r a := by
  simp [Schedule.byteAt_eq _ ha, Schedule.setWord]

theorem byteAt_keyGroup (k : Block) {a : Nat} (ha : a < 16) : Schedule.byteAt (keyGroup k) a = k[a] := by
  rw [Schedule.byteAt_eq _ (by omega)]
  simp [keyGroup, ha]

/-- One word of the expansion leaves every byte below it alone. -/
theorem byteAt_expandTo_succ (k : Block) (n : Nat) {a : Nat} (ha : a < 4 * (n + 4)) (h : a < 176) :
    Schedule.byteAt (expandTo k (n + 1)) a = Schedule.byteAt (expandTo k n) a := by
  rw [expandTo, Schedule.byteAt_setWord _ _ _ h, if_neg (by omega)]

/-- The expansion never changes a word it has computed. -/
theorem byteAt_expandTo (k : Block) {n m : Nat} (hnm : n ≤ m) {a : Nat} (ha : a < 4 * (n + 4)) (h : a < 176) :
    Schedule.byteAt (expandTo k m) a = Schedule.byteAt (expandTo k n) a := by
  induction m, hnm using Nat.le_induction with
  | base => rfl
  | succ m hm ih => rw [byteAt_expandTo_succ k m (by omega) h, ih]

/-- Below the words computed so far, the unfinished schedule is the finished one. -/
theorem byteAt_expandKey (k : Block) {n : Nat} (hn : n ≤ 40) {a : Nat} (ha : a < 4 * (n + 4)) (h : a < 176) :
    Schedule.byteAt (expandKey k) a = Schedule.byteAt (expandTo k n) a :=
  byteAt_expandTo k hn ha h

theorem wordAt_expandKey (k : Block) {n i : Nat} (hn : n ≤ 40) (hi : i < n + 4) :
    Schedule.wordAt (expandKey k) i = Schedule.wordAt (expandTo k n) i := by
  refine Vector.ext fun j hj => ?_
  rw [Schedule.wordAt_get _ _ hj, Schedule.wordAt_get _ _ hj, byteAt_expandKey k hn (by omega) (by omega)]

end Sys2Proof
end

