-- ==== Sys2Proof/Laws/Step.lean ====
section
/-! SUPPORT. Everything one step can have done, by the turn that stood first in the host's list. -/

namespace Sys2Proof.Machine

/-- The core moved, a command was presented, the host's own turn ended, reset came, or a procedure ran (R9). -/
theorem step_cases {s t : State} (h : step s = .next t) :
    (coreTurn exec s = .next t ∧ ∀ rest, s.host ≠ .rst :: rest) ∨
      (∃ rest, s.host = .core :: rest ∧ coreTurn exec (s.setHost rest) = .next t) ∨
      (∃ cw rest, (s.host = .present cw :: rest ∨ s.host = .hold cw :: rest) ∧
        exec (decode cw) (s.setHost rest) = .next t) ∨
      (∃ rest, s.host = .wait :: rest ∧ s.busy = false ∧ t = s.setHost rest) ∨
      (∃ rest, s.host = .readDout :: rest ∧ s.doutValid = true ∧ t = s.recordDout.setHost rest) ∨
      (∃ rest, s.host = .rst :: rest ∧ t = s.takeReset.setHost rest) ∨
      (∃ k vs rest, s.host = .batchHw k vs :: rest ∧ execEncryptblockshw k vs (s.setHost rest) = .next t) ∨
      (∃ key blocks rest, s.host = .batch key blocks :: rest ∧
        execEncryptblocks key blocks (s.setHost rest) = .next t) := by
  unfold step at h
  split at h
  · exact .inl ⟨h, by simp [*]⟩
  · exact .inr (.inl ⟨_, ‹_›, h⟩)
  · exact .inr (.inr (.inl ⟨_, _, .inl ‹_›, h⟩))
  · split at h
    · exact .inl ⟨h, by simp [*]⟩
    · exact .inr (.inr (.inl ⟨_, _, .inr ‹_›, h⟩))
  · split at h
    · exact .inl ⟨h, by simp [*]⟩
    · exact .inr (.inr (.inr (.inl ⟨_, ‹_›, by simpa using ‹¬s.busy = true›, by simpa using h.symm⟩)))
  · split at h
    · exact .inr (.inr (.inr (.inr (.inl ⟨_, ‹_›, ‹_›, by simpa using h.symm⟩))))
    · exact .inl ⟨h, by simp [*]⟩
  · exact .inr (.inr (.inr (.inr (.inr (.inl ⟨_, ‹_›, by simpa using h.symm⟩)))))
  · exact .inr (.inr (.inr (.inr (.inr (.inr (.inl ⟨_, _, _, ‹_›, h⟩))))))
  · exact .inr (.inr (.inr (.inr (.inr (.inr (.inr ⟨_, _, _, ‹_›, h⟩))))))

end Sys2Proof.Machine
end

