-- ==== Sys2Proof/Tests/Slice0.lean ====
section
/-! SUPPORT. The model's own tests. Expected values are from spec/95_test_vectors.md and spec/96_test_programs.md, named in each
comment; none is the model's own answer. The second half shows, for every statement with hypotheses, that concrete states and
operands meet them. -/

namespace Sys2Proof.Tests

open Sys2Proof Sys2Proof.Machine

/-! ### Helpers -/

/-- What holds of the next state, if there is one. -/
def nextAnd (o : Out) (f : State → Bool) : Bool :=
  match o with
  | .next t => f t
  | .fault _ => false
  | .refused _ => false

def faults (o : Out) (r : Fault) : Bool :=
  match o with
  | .next _ => false
  | .fault r' => decide (r' = r)
  | .refused _ => false

def refuses (o : Out) (r : Refusal) : Bool :=
  match o with
  | .next _ => false
  | .fault _ => false
  | .refused r' => decide (r' = r)

/-- A 16-byte sequence from its 32 hex digits read as a number. -/
def hex (n : Nat) : Block := Vector.ofFn fun i : Fin 16 => ext (BitVec.ofNat 128 n) i.val

/-- A state whose `RK` holds some bytes at an offset, and nothing else. -/
def withRk (a : Nat) (bs : List Byte) : State := { State.reset with RK := Memory.writeList [] a bs }

/-- The state of `RND.INIT`, `RND.FULL`, `RND.FINAL`, with the round key at its offset. -/
def cipherState (p : Phase) (r : BitVec 4) (s : Block) (g : Nat) (k : Block) : State :=
  { withRk (16 * g) k.toList with phase := p, round := r, S := s, keyValid := true }

/-- The state of `KX.STEP` with word `i - 4` and word `i - 1` in `RK`. -/
def kxState (i : Nat) (p q : Word) : State :=
  { withRk (4 * (i - 1)) p.toList with
    RK := Memory.writeList (Memory.writeList [] (4 * (i - 1)) p.toList) (4 * (i - 4)) q.toList
    phase := .keyexp
    widx := BitVec.ofNat 6 i }

/-- A block in hand, and a host that presents a word now. -/
def presented (cw : CommandWord) : State :=
  { State.reset with
    phase := .initial
    keyValid := true
    host := [.present cw] }

/-- Round 10 is complete. -/
def roundTen (s : Block) : State :=
  { State.reset with
    phase := .round
    round := 10
    keyValid := true
    S := s }

/-- The result of a function. -/
def returns (o : Out) (r : Result) : Bool := nextAnd o fun t => decide (t.result = r)

/-! ### Well-formed terms: an ill-formed term for each check, which the check refuses -/

theorem test_wf_rcon : (Instr.rcon 1).wellFormed = true ∧ (Instr.rcon 10).wellFormed = true ∧
    (Instr.rcon 0).wellFormed = false ∧ (Instr.rcon 11).wellFormed = false := by decide

theorem test_wf_kexpword : (∀ i ∈ [4, 43], (Instr.kexpword i #v[0, 0, 0, 0] #v[0, 0, 0, 0]).wellFormed = true) ∧
    ∀ i ∈ [3, 44], (Instr.kexpword i #v[0, 0, 0, 0] #v[0, 0, 0, 0]).wellFormed = false := by decide

theorem test_wf_addroundkey (st : Block) (r : Schedule) : (Instr.addroundkey 10 st r).wellFormed = true ∧
    (Instr.addroundkey 11 st r).wellFormed = false := ⟨rfl, rfl⟩

/-! ### Decoding: words written out from R50, R51 -/

/-- spec/96 program 3, line 3: `cmd = 00`. -/
theorem test_decode_nop : decodeTableWord 130 0x000000000000000000000000000000000 = some (.nop 0) := by decide

/-- spec/96 program 1, line 1: `cmd = 01`. -/
theorem test_decode_loadkey : decodeTableWord 130 0x109cf4f3cabf7158828aed2a62b7e1516 =
    some (.loadkey 0x09cf4f3cabf7158828aed2a62b7e1516#128) := by decide

/-- spec/96 program 2, line 5: `cmd = 10`, the top bits of `din` set. -/
theorem test_decode_encrypt : decodeTableWord 136 0x2e66c3710ad2b417bdf4f9b17f69f2445 =
    some (.encrypt 0xe66c3710ad2b417bdf4f9b17f69f2445#128) := by decide

/-- `cmd = 11`, with `din` ignored but kept (R54). -/
theorem test_decode_rsvd : decodeTableWord 130 0x380000000000000000000000000000001 =
    some (.rsvd 0x80000000000000000000000000000001#128) := by decide

/-- A row without bits, and a word longer than a command (R57, R58). -/
theorem test_decode_rejects : decodeBits 0 0 = .error .noEncoding ∧
    decodeBits 136 (2 ^ 130) = .error .longerThanACommand ∧ decodeTableWord 0 0 = none := by
  refine ⟨rfl, ?_, rfl⟩
  simp [decodeBits, tableWord]

/-- spec/96 program 2, line 2. -/
theorem test_encode_encrypt : encode (.encrypt 0x7393172ae93d7e112e409f966bc1bee2#128) =
    some 0x27393172ae93d7e112e409f966bc1bee2#130 := by decide

/-- R56, row by row, each at the edges of its condition, and the states no row covers. -/
theorem test_decodeSeq_keyexp : decodeSeq .keyexp 0 4 = some .kxStep ∧ decodeSeq .keyexp 0 43 = some .kxStep ∧
    decodeSeq .keyexp 0 3 = none ∧ decodeSeq .keyexp 0 44 = none := by decide

theorem test_decodeSeq_round : decodeSeq .initial 15 0 = some .rndInit ∧ decodeSeq .round 0 0 = some .rndFull ∧
    decodeSeq .round 8 0 = some .rndFull ∧ decodeSeq .round 9 0 = some .rndFinal ∧
    decodeSeq .round 10 0 = some .rndDone ∧ decodeSeq .round 11 0 = none := by decide

theorem test_decodeSeq_ready : decodeSeq .idle 0 4 = none ∧ decodeSeq .done 10 4 = none := by decide

/-! ### Reset -/

/-- spec/96 program 1: after reset `STATUS = 0b00000` and the phase is `IDLE`. -/
theorem test_reset : State.reset.status = 0b00000#5 ∧ State.reset.phase = .idle := by decide

/-- R155, R156: reset in the middle of a block. -/
theorem test_rst_event : nextAnd (step { State.reset with phase := .round, keyValid := true, errNokey := true, host := [.rst] })
    (fun t => decide (t.phase = .idle ∧ t.status = 0b00000#5 ∧ t.RK = [])) = true := by decide

/-! ### Host commands (spec/96 programs 1 and 3) -/

/-- R121: `NOP` in `DONE` leaves `dout` valid. -/
theorem test_nop : nextAnd (exec (.nop 7) { State.reset with phase := .done, doutValid := true, keyValid := true })
    (fun t => decide (t.doutValid = true ∧ t.phase = .done)) = true := by decide

/-- spec/96 program 1, line 1: at acceptance `STATUS = 0b00001`, `KEYEXP`; the key in `RK[0..15]`. -/
theorem test_loadkey : nextAnd (exec (.loadkey 0x09cf4f3cabf7158828aed2a62b7e1516#128) State.reset)
    (fun t => decide (t.status = 0b00001#5 ∧ t.phase = .keyexp ∧ t.widx = 4 ∧
      memRead t .rk 0 4 = .ok #v[0x2b, 0x7e, 0x15, 0x16] ∧ memRead t .rk 12 4 = .ok #v[0x09, 0xcf, 0x4f, 0x3c])) = true := by
  decide

/-- R120: presented while busy, it has no effect. -/
theorem test_loadkey_busy : nextAnd (step (presented 0x109cf4f3cabf7158828aed2a62b7e1516#130))
    (fun t => decide (t.phase = .initial ∧ t.RK = [] ∧ t.keyValid = true ∧ t.host = [])) = true := by decide

/-- spec/96 program 1, line 2: at acceptance `STATUS = 0b00011`, `INITIAL`; `S` is the plaintext. -/
theorem test_encrypt : nextAnd (exec (.encrypt 0x7393172ae93d7e112e409f966bc1bee2#128) { State.reset with keyValid := true })
    (fun t => decide (t.status = 0b00011#5 ∧ t.phase = .initial ∧ t.S = hex 0x6bc1bee22e409f96e93d7e117393172a)) = true := by
  decide

/-- spec/96 program 3, line 1: `STATUS = 0b01000`, `IDLE`. -/
theorem test_encrypt_nokey : nextAnd (exec (.encrypt 0) State.reset)
    (fun t => decide (t.status = 0b01000#5 ∧ t.phase = .idle)) = true := by decide

/-- spec/96 program 3, line 2: `STATUS = 0b11000` after the `NoKey` of line 1. -/
theorem test_rsvd : nextAnd (exec (.rsvd 0) { State.reset with errNokey := true })
    (fun t => decide (t.status = 0b11000#5 ∧ t.phase = .idle)) = true := by decide

/-! ### Sequencer steps (spec/95 L2.6 as R107 to R111 quote it) -/

/-- R111, `i = 4`: `RK[16..19] = a0 fa fe 17`, `widx = 5`. -/
theorem test_kxStep_first : nextAnd (exec .kxStep (kxState 4 #v[0x09, 0xcf, 0x4f, 0x3c] #v[0x2b, 0x7e, 0x15, 0x16]))
    (fun t => decide (memRead t .rk 16 4 = .ok #v[0xa0, 0xfa, 0xfe, 0x17] ∧ t.widx = 5 ∧ t.phase = .keyexp ∧
      t.keyValid = false)) = true := by decide

/-- R111, `i = 43`: `RK[172..175] = b6 63 0c a6`, `key_valid`, `IDLE`. -/
theorem test_kxStep_last : nextAnd (exec .kxStep (kxState 43 #v[0xe1, 0x3f, 0x0c, 0xc8] #v[0x57, 0x5c, 0x00, 0x6e]))
    (fun t => decide (memRead t .rk 172 4 = .ok #v[0xb6, 0x63, 0x0c, 0xa6] ∧ t.phase = .idle ∧ t.keyValid = true)) = true := by
  decide

/-- R107's example. -/
theorem test_rndInit : nextAnd (exec .rndInit (cipherState .initial 0 (hex 0x6bc1bee22e409f96e93d7e117393172a) 0
      (hex 0x2b7e151628aed2a6abf7158809cf4f3c)))
    (fun t => decide (t.S = hex 0x40bfabf406ee4d3042ca6b997a5c5816 ∧ t.phase = .round ∧ t.round = 0)) = true := by decide

/-- R108's example `k = 0`. -/
theorem test_rndFull_first : nextAnd (exec .rndFull (cipherState .round 0 (hex 0x40bfabf406ee4d3042ca6b997a5c5816) 1
      (hex 0xa0fafe1788542cb123a339392a6c7605)))
    (fun t => decide (t.S = hex 0xf265e8d51fd2397bc3b9976d9076505c ∧ t.round = 1)) = true := by decide

/-- R108's example `k = 8`. -/
theorem test_rndFull_last : nextAnd (exec .rndFull (cipherState .round 8 (hex 0x41d7c6537d669140dd2f179d02acc51b) 9
      (hex 0xac7766f319fadc2128d12941575c006e)))
    (fun t => decide (t.S = hex 0xbb36c7eb88334d49a4e7112e74f182c4 ∧ t.round = 9 ∧ t.phase = .round)) = true := by decide

/-- R109's example. -/
theorem test_rndFinal : nextAnd (exec .rndFinal (cipherState .round 9 (hex 0xbb36c7eb88334d49a4e7112e74f182c4) 10
      (hex 0xd014f9a8c9ee2589e13f0cc8b6630ca6)))
    (fun t => decide (t.S = hex 0x3ad77bb40d7a3660a89ecaf32466ef97 ∧ t.round = 10 ∧ t.phase = .round)) = true := by decide

/-- R110's example; spec/96 program 1: `STATUS = 0b00110`. -/
theorem test_rndDone : nextAnd (exec .rndDone (roundTen (hex 0x3ad77bb40d7a3660a89ecaf32466ef97)))
    (fun t => decide (t.dout = 0x2466ef97a89ecaf30d7a36603ad77bb4#128 ∧ t.status = 0b00110#5 ∧ t.phase = .done)) = true := by
  decide

/-- A step in a state that does not select it, and a read of bytes that hold no value. -/
theorem test_step_stops : refuses (exec .rndDone State.reset) .stepNotSelected = true ∧
    refuses (step { State.reset with phase := .round, round := 11 }) .noStepSelected = true ∧
    faults (exec .rndInit { State.reset with phase := .initial }) .unwrittenRk = true := by decide

/-! ### Functions (spec/95 L2.1 to L2.5) -/

theorem test_sbox : returns (exec (.sbox 0x1f) State.reset) (.byte 0xc0) = true ∧ sbox 0x35 = 0x96 ∧ sbox 0x52 = 0x00 ∧
    sbox 0xa7 = 0x5c ∧ sbox 0xc9 = 0xdd ∧ sbox 0xff = 0x16 := by decide

theorem test_rcon : returns (exec (.rcon 1) State.reset) (.byte 0x01) = true ∧
    returns (exec (.rcon 9) State.reset) (.byte 0x1b) = true ∧ returns (exec (.rcon 10) State.reset) (.byte 0x36) = true ∧
    faults (exec (.rcon 11) State.reset) .outsideSpace = true := by decide

theorem test_xtime : returns (exec (.xtime 0x81) State.reset) (.byte 0x19) = true ∧ xtime 0x40 = 0x80 ∧ xtime 0x7f = 0xfe ∧
    xtime 0x80 = 0x1b ∧ xtime 0xff = 0xe5 := by decide

theorem test_mul3_gmul : mul3 0xc0 = 0x5b ∧ gmul 0x57 0x83 = 0xc1 ∧ gmul 0x53 0xca = 0x01 := by decide

theorem test_rotword : returns (exec (.rotword #v[0xff, 0, 0, 0]) State.reset) (.word #v[0, 0, 0, 0xff]) = true := by decide

theorem test_subword : returns (exec (.subword #v[0x00, 0x01, 0x02, 0x03]) State.reset) (.word #v[0x63, 0x7c, 0x77, 0x7b]) = true := by
  decide

theorem test_kexpword : returns (exec (.kexpword 32 #v[0x4e, 0xa6, 0xdc, 0x4f] #v[0x4e, 0x54, 0xf7, 0x0e]) State.reset)
      (.word #v[0xea, 0xd2, 0x73, 0x21]) = true ∧
    returns (exec (.kexpword 37 #v[0xac, 0x77, 0x66, 0xf3] #v[0xb5, 0x8d, 0xba, 0xd2]) State.reset)
      (.word #v[0x19, 0xfa, 0xdc, 0x21]) = true := by decide

set_option maxRecDepth 20000 in
/-- spec/95 L2.3 (c): word 4 of the schedule of `00..0f`. -/
theorem test_expandkey : Schedule.wordAt (expandTo (hex 0x000102030405060708090a0b0c0d0e0f) 1) 4 = #v[0xd6, 0xaa, 0x74, 0xfd] := by
  decide

/-- spec/95 L2.4, `g = 10`. -/
theorem test_addroundkey : xorBlock (hex 0xeac3821cc49413e949a1c63b9205e331) (hex 0xd014f9a8c9ee2589e13f0cc8b6630ca6) =
    hex 0x3ad77bb40d7a3660a89ecaf32466ef97 := by decide

theorem test_subbytes : returns (exec (.subbytes (hex 0x00ff5352637c800ff010aa55c9ab9a01)) State.reset)
    (.block (hex 0x6316ed00fb10cd768ccaacfcdd62b87c)) = true := by decide

theorem test_shiftrows : returns (exec (.shiftrows (hex 0x000102030405060708090a0b0c0d0e0f)) State.reset)
    (.block (hex 0x00050a0f04090e03080d02070c01060b)) = true := by decide

theorem test_mixcolumns : returns (exec (.mixcolumns (hex 0x09287f476f746abf2c4a6204da08e3ee)) State.reset)
    (.block (hex 0x529f16c2978615cae01aae54ba1a2659)) = true := by decide

/-! The vectors of spec/95 L2.5, every line of the table, which R102 asks for. A sequence of bytes is written as its hex digits. -/

/-- The lines of `Unpack`. -/
theorem test_unpack : ∀ p ∈ ([
      (0x00112233445566778899aabbccddeeff#128, 0xccddeeff8899aabb4455667700112233),
      (0x00000000000000000000000000000001#128, 0x00000001000000000000000000000000),
      (0x80000000000000000000000000000000#128, 0x00000000000000000000000080000000),
      (0x000000000000000000000000ab000000#128, 0xab000000000000000000000000000000),
      (0x00000000000000000000000000000000#128, 0x00000000000000000000000000000000),
      (0xffffffffffffffffffffffffffffffff#128, 0xffffffffffffffffffffffffffffffff),
      (0xdeadbeefdeadbeefdeadbeefdeadbeef#128, 0xdeadbeefdeadbeefdeadbeefdeadbeef),
      (0x7393172ae93d7e112e409f966bc1bee2#128, 0x6bc1bee22e409f96e93d7e117393172a)] : List (Packed × Nat)),
    returns (exec (.unpack p.1) State.reset) (.block (hex p.2)) = true := by decide

/-- The lines of `UnpackKey`. -/
theorem test_unpackkey : ∀ p ∈ ([
      (0x00112233445566778899aabbccddeeff#128, 0xccddeeff8899aabb4455667700112233),
      (0x09cf4f3cabf7158828aed2a62b7e1516#128, 0x2b7e151628aed2a6abf7158809cf4f3c)] : List (Packed × Nat)),
    returns (exec (.unpackkey p.1) State.reset) (.block (hex p.2)) = true := by decide

/-- The lines of `Pack`. -/
theorem test_pack : ∀ p ∈ ([
      (0x000102030405060708090a0b0c0d0e0f, 0x0c0d0e0f08090a0b0405060700010203#128),
      (0x01000000000000000000000000000000, 0x00000000000000000000000001000000#128),
      (0x00000001000000000000000000000000, 0x00000000000000000000000000000001#128),
      (0x00000000000000000000000001000000, 0x01000000000000000000000000000000#128),
      (0x00000000000000000000000000000001, 0x00000001000000000000000000000000#128),
      (0x3ad77bb40d7a3660a89ecaf32466ef97, 0x2466ef97a89ecaf30d7a36603ad77bb4#128)] : List (Nat × Packed)),
    returns (exec (.pack (hex p.1)) State.reset) (.packed p.2) = true := by decide

/-- The two round trips. -/
theorem test_marshal_round_trip :
    pack (unpack 0x00112233445566778899aabbccddeeff#128) = 0x00112233445566778899aabbccddeeff#128 ∧
    unpack (pack (hex 0x000102030405060708090a0b0c0d0e0f)) = hex 0x000102030405060708090a0b0c0d0e0f := by decide

/-- The permutation, packed byte to conventional index, as the line under the table lists it. -/
theorem test_marshal_permutation :
    (List.range 16).map swapIndex = [12, 13, 14, 15, 8, 9, 10, 11, 4, 5, 6, 7, 0, 1, 2, 3] := by decide

/-- The host's word view (R101). -/
theorem test_marshal_words :
    toWireWords 0x6bc1bee2 0x2e409f96 0xe93d7e11 0x7393172a = 0x7393172ae93d7e112e409f966bc1bee2#128 ∧
    toWire (hex 0x6bc1bee22e409f96e93d7e117393172a) = 0x7393172ae93d7e112e409f966bc1bee2#128 ∧
    fromWire 0x7393172ae93d7e112e409f966bc1bee2#128 = hex 0x6bc1bee22e409f96e93d7e117393172a := by decide

/-- spec/95 L2.4, composite rounds: the last full round and the final round. -/
theorem test_cipher_rounds : fullRoundWith (hex 0x41d7c6537d669140dd2f179d02acc51b) (hex 0xac7766f319fadc2128d12941575c006e) =
      hex 0xbb36c7eb88334d49a4e7112e74f182c4 ∧
    finalRoundWith (hex 0xbb36c7eb88334d49a4e7112e74f182c4) (hex 0xd014f9a8c9ee2589e13f0cc8b6630ca6) =
      hex 0x3ad77bb40d7a3660a89ecaf32466ef97 := by decide

/-! ### Host procedures: the errors (R136, R137, R142); whole batches are statements for the provers -/

theorem test_encryptblocks_key : returns (exec (.encryptblocks (List.replicate 15 0) [List.replicate 17 0]) State.reset)
    (.error .invalidKeyLength) = true := by decide

theorem test_encryptblocks_block :
    returns (exec (.encryptblocks (List.replicate 16 0) [List.replicate 16 0, List.replicate 17 0]) State.reset)
      (.error .invalidBlockLength) = true := by decide

/-! ### Text (R59, R60) -/

theorem test_parse : parseLine "RSVD ; reserved".toList = some .rsvd ∧ parseLine "LOADKEY 0x09".toList = none ∧
    parseLine "RESULT.B".toList = some .resultB := by decide

/-! ### The first step after reset runs the word that is placed (DESIGN CHOICE, log entry 11) -/

theorem test_withFetchWord : nextAnd (step (State.reset.withFetchWord 130 0x300000000000000000000000000000000))
    (fun t => t.errBadcmd) = true := by decide

/-! ### The end of a run (R165), with the block of spec/96 program 1 -/

/-- The block is finished; the host has still to read it. -/
def finished : State :=
  { State.reset with
    phase := .done
    keyValid := true
    dout := 0x2466ef97a89ecaf30d7a36603ad77bb4#128
    doutValid := true
    host := [.readDout] }

/-- In `DONE` the run is not over before the host has read the result, and in the next step it is, for one block and not for two. -/
theorem test_end_of_run : ¬finished.runOver 1 (finished.readSince State.reset) ∧
    ∃ t, step finished = .next t ∧ t.successfulEnd 1 (t.readSince State.reset) ∧ ¬t.runOver 2 (t.readSince State.reset) := by
  refine ⟨by simp [State.runOver, State.readSince, finished, State.reset], finished.recordDout.setHost [], rfl,
    ⟨⟨rfl, rfl, by simp, fun _ => ⟨rfl, rfl⟩⟩, rfl, rfl⟩, ?_⟩
  simp [State.runOver, State.readSince, finished, State.reset, State.recordDout, State.setHost]

end Sys2Proof.Tests
end

