-- ==== Sys2Proof/Tests/Witness.lean ====
section
/-! SUPPORT. For every statement of Sys2Proof/Certificates/Slice0/Obligations.lean with hypotheses, states and operands that meet
all of them together, clause by clause, at the edges of each range. -/

namespace Sys2Proof.Tests

open Sys2Proof Sys2Proof.Machine

/-! ### States that keep the invariant, one in each phase -/

/-- The all-zero key. -/
def zeroKey : Block := Vector.replicate 16 0

/-- Its schedule, by name only: nothing here needs its bytes. -/
@[irreducible] def zeroSchedule : Schedule := expandKey zeroKey

theorem zeroSchedule_eq : zeroSchedule = expandKey zeroKey := by
  unfold zeroSchedule
  rfl

/-- A schedule as `RK` holds it. -/
@[irreducible] def rkOf (r : Schedule) : Memory := Memory.writeList [] 0 r.toList

theorem rkOf_holds (r : Schedule) : RkHolds (rkOf r) r 176 := fun a ha => by
  have h : 0 ≤ a ∧ a < 0 + r.toList.length := by simp [ha]
  rw [rkOf, Memory.read_writeList, if_pos h]
  simp [Schedule.byteAt_eq r ha, ha]

theorem rkOf_wf (r : Schedule) : Memory.wf (rkOf r) = true := by
  rw [rkOf]
  exact Memory.writeList_wf _ rfl (by simp [Config.NRKBYTES])

/-- A schedule is loaded, and the core is in the phase given. -/
def keyed (p : Phase) (r : BitVec 4) (host : List HostEvent) : State :=
  { State.reset with
    RK := rkOf zeroSchedule
    keyValid := true
    phase := p
    round := r
    doutValid := decide (p = .done)
    host := host }

/-- A key expansion is at its last word. -/
def expanding (host : List HostEvent) : State :=
  { State.reset with
    RK := rkOf zeroSchedule
    phase := .keyexp
    widx := 43
    host := host }

theorem keyed_inv (p : Phase) (hp : p ≠ .keyexp) (r : BitVec 4) (hr : r.toNat ≤ 10) (host : List HostEvent) :
    (keyed p r host).Inv :=
  ⟨rkOf_wf _, fun _ => hr, fun h => absurd h hp, fun h => absurd h hp, fun _ => rfl, by simp [keyed], fun h => absurd h hp,
    fun _ => ⟨zeroKey, zeroSchedule_eq ▸ rkOf_holds zeroSchedule⟩⟩

theorem expanding_inv (host : List HostEvent) : (expanding host).Inv :=
  ⟨rkOf_wf _, by simp [expanding], fun _ => (by decide : 4 ≤ 43 ∧ 43 ≤ 43), fun _ => rfl, by simp [expanding],
    by simp [expanding, State.reset],
    fun _ => ⟨zeroKey, zeroSchedule_eq ▸ fun a ha => rkOf_holds zeroSchedule a (Nat.lt_trans ha (by decide : 172 < 176))⟩,
    by simp [expanding, State.reset]⟩

theorem reset_inv : State.reset.Inv := by
  constructor <;> simp [State.reset]
  rfl

/-! ### Encodings and decoders -/

theorem witness_decodeOfEncode : (encode (.nop 0)).isSome = true ∧ (encode (.loadkey 0)).isSome = true ∧
    (encode (.encrypt 0)).isSome = true ∧ (encode (.rsvd 0)).isSome = true ∧
    encode (.rsvd 0xffffffffffffffffffffffffffffffff#128) = some 0x3ffffffffffffffffffffffffffffffff#130 := by decide

theorem witness_sequencerRegisters (host : List HostEvent) :
    (keyed .initial 15 host).selected = some .rndInit ∧ (keyed .round 0 host).selected = some .rndFull ∧
    (keyed .round 8 host).selected = some .rndFull ∧ (keyed .round 9 host).selected = some .rndFinal ∧
    (keyed .round 10 host).selected = some .rndDone ∧ (expanding host).selected = some .kxStep ∧
    ((keyed .done 10 host).Inv ∧ (keyed .done 10 host).selected = none) ∧ (State.reset.Inv ∧ State.reset.selected = none) :=
  ⟨rfl, rfl, rfl, rfl, rfl, rfl, ⟨keyed_inv _ (by decide) _ (by decide) _, rfl⟩, reset_inv, rfl⟩

/-! ### Steps -/

theorem witness_stepRunsThePresented :
    (keyed .round 10 [.present 5]).host = .present 5 :: [] ∧
    ((keyed .done 10 [.hold 5]).host = .hold 5 :: [] ∧ (keyed .done 10 [.hold 5]).busy = false) ∧
    (keyed .idle 0 [.batchHw 1 [2]]).host = .batchHw 1 [2] :: [] ∧ (keyed .idle 0 [.batch [] []]).host = .batch [] [] :: [] :=
  ⟨rfl, ⟨rfl, rfl⟩, rfl, rfl⟩

theorem witness_stepRunsTheSelected :
    ((expanding []).selected = some .kxStep ∧ (expanding []).host = []) ∧
    ((keyed .initial 0 [.core]).selected = some .rndInit ∧ (keyed .initial 0 [.core]).host = .core :: []) ∧
    ((keyed .round 8 [.hold 0]).selected = some .rndFull ∧ (keyed .round 8 [.hold 0]).host = .hold 0 :: []) ∧
    ((keyed .round 9 [.wait]).selected = some .rndFinal ∧ (keyed .round 9 [.wait]).host = .wait :: []) ∧
    ((keyed .round 10 [.readDout]).selected = some .rndDone ∧ (keyed .round 10 [.readDout]).host = .readDout :: [] ∧
      (keyed .round 10 [.readDout]).doutValid = false) :=
  ⟨⟨rfl, rfl⟩, ⟨rfl, rfl⟩, ⟨rfl, rfl⟩, ⟨rfl, rfl⟩, rfl, rfl, rfl⟩

theorem witness_readyCoreStays :
    ((keyed .done 10 []).phase = .done ∧ (keyed .done 10 []).host = []) ∧
    ((keyed .idle 0 [.core]).phase = .idle ∧ (keyed .idle 0 [.core]).host = .core :: []) ∧
    ((keyed .idle 0 [.wait]).phase = .idle ∧ (keyed .idle 0 [.wait]).host = .wait :: []) ∧
    ((keyed .done 10 [.readDout]).host = .readDout :: [] ∧ (keyed .done 10 [.readDout]).doutValid = true) ∧
    ((keyed .idle 0 [.readDout]).host = .readDout :: [] ∧ (keyed .idle 0 [.readDout]).doutValid = false ∧
      step (keyed .idle 0 [.readDout]) = .next (keyed .idle 0 [.readDout])) :=
  ⟨⟨rfl, rfl⟩, ⟨rfl, rfl⟩, ⟨rfl, rfl⟩, ⟨rfl, rfl⟩, rfl, rfl, rfl⟩

theorem witness_commandWhileBusy :
    (keyed .initial 0 []).busy = true ∧
    ((keyed .round 10 [.present 0]).busy = true ∧ (keyed .round 10 [.present 0]).host = .present 0 :: []) ∧
    ((keyed .round 10 [.hold 0]).busy = true ∧ (keyed .round 10 [.hold 0]).host = .hold 0 :: [] ∧
      step (keyed .round 10 [.hold 0]) = .next ((keyed .round 10 [.hold 0]).finishBlock (pack zeroKey))) :=
  ⟨rfl, ⟨rfl, rfl⟩, rfl, rfl, rfl⟩

/-! ### Commands -/

theorem witness_commands :
    State.reset.busy = false ∧ (keyed .done 10 []).busy = false ∧
    ((keyed .done 10 []).busy = false ∧ (keyed .done 10 []).keyValid = true) ∧
    ((keyed .idle 0 []).busy = false ∧ (keyed .idle 0 []).keyValid = true) ∧
    (State.reset.busy = false ∧ State.reset.keyValid = false) := by decide

/-! ### Sequencer steps -/

/-- The round key is that of the all-zero key, so the hypothesis of the second clause holds too. -/
theorem witness_rndInit : (keyed .initial 0 []).phase = .initial ∧
    (∀ a, a < 16 → Memory.read (keyed .initial 0 []).RK a = some (Schedule.byteAt zeroSchedule a)) ∧
    ∀ a, a < 16 → Schedule.byteAt zeroSchedule a = 0 :=
  ⟨rfl, fun a ha => rkOf_holds _ a (Nat.lt_trans ha (by decide)), fun a ha => by
    rw [zeroSchedule_eq, byteAt_expandKey zeroKey (Nat.zero_le 40) ha (Nat.lt_trans ha (by decide)), expandTo, byteAt_keyGroup _ ha]
    simp [zeroKey]⟩

/-- The hypotheses of `RND.FULL` at the first and the last round it completes. -/
theorem witness_rndFull : ∀ k ∈ [0, 8], (keyed .round (BitVec.ofNat 4 k) []).phase = .round ∧
    (keyed .round (BitVec.ofNat 4 k) []).round.toNat = k ∧ k ≤ 8 ∧
    ∀ a, 16 * (k + 1) ≤ a → a < 16 * (k + 1) + 16 →
      Memory.read (keyed .round (BitVec.ofNat 4 k) []).RK a = some (Schedule.byteAt zeroSchedule a) := by
  intro k hk
  have hk8 : k ≤ 8 := by
    simp only [List.mem_cons, List.not_mem_nil, or_false] at hk
    omega
  refine ⟨rfl, ?_, hk8, fun a _ ha => rkOf_holds _ a (by omega)⟩
  simp only [List.mem_cons, List.not_mem_nil, or_false] at hk
  rcases hk with rfl | rfl <;> rfl

theorem witness_rndFinal : (keyed .round 9 []).phase = .round ∧ (keyed .round 9 []).round.toNat = 9 ∧
    ∀ a, 160 ≤ a → a < 176 → Memory.read (keyed .round 9 []).RK a = some (Schedule.byteAt zeroSchedule a) :=
  ⟨rfl, rfl, fun a _ ha => rkOf_holds _ a ha⟩

theorem witness_rndDone : (keyed .round 10 []).phase = .round ∧ (keyed .round 10 []).round.toNat = 10 := ⟨rfl, rfl⟩

/-- The hypotheses of `KX.STEP` at its first word, a middle one and its last. -/
theorem witness_kxStep : ∀ i ∈ [4, 42, 43], (kxState i #v[1, 2, 3, 4] #v[5, 6, 7, 8]).phase = .keyexp ∧
    (kxState i #v[1, 2, 3, 4] #v[5, 6, 7, 8]).widx.toNat = i ∧ 4 ≤ i ∧ i ≤ 43 ∧
    memRead (kxState i #v[1, 2, 3, 4] #v[5, 6, 7, 8]) .rk (4 * (i - 1)) 4 = .ok #v[1, 2, 3, 4] ∧
    memRead (kxState i #v[1, 2, 3, 4] #v[5, 6, 7, 8]) .rk (4 * (i - 4)) 4 = .ok #v[5, 6, 7, 8] := by decide

/-- `memRead` answering those words says what the statement's hypotheses say, byte by byte. -/
theorem witness_kxStep_bytes : ∀ i ∈ [4, 42, 43],
    (∀ (j : Nat) (h : j < 4), Memory.read (kxState i #v[1, 2, 3, 4] #v[5, 6, 7, 8]).RK (4 * (i - 1) + j) =
      some (#v[1, 2, 3, 4] : Word)[j]) ∧
    (∀ (j : Nat) (h : j < 4), Memory.read (kxState i #v[1, 2, 3, 4] #v[5, 6, 7, 8]).RK (4 * (i - 4) + j) =
      some (#v[5, 6, 7, 8] : Word)[j]) := fun i hi =>
  ⟨(memRead_rk_spec (witness_kxStep i hi).2.2.2.2.1).2, (memRead_rk_spec (witness_kxStep i hi).2.2.2.2.2).2⟩

theorem witness_unselected : State.reset.selected ≠ some .kxStep ∧ (keyed .round 10 []).selected ≠ some .rndFinal ∧
    ({ State.reset with phase := .round, round := 11 } : State).busy = true ∧
    ({ State.reset with phase := .round, round := 11 } : State).selected = none ∧
    ({ State.reset with phase := .round, round := 11 } : State).host = [] := by
  refine ⟨by decide, ?_, rfl, rfl, rfl⟩
  rw [(witness_sequencerRegisters []).2.2.2.2.1]
  decide

/-! ### Functions: the ranges and their edges -/

theorem witness_ranges : (1 ≤ 1 ∧ 1 ≤ 10) ∧ (1 ≤ 10 ∧ 10 ≤ 10) ∧ (1 ≤ 9 ∧ 9 ≤ 9) ∧ 11 ≤ 11 ∧
    (0x7f#8).toNat < 128 ∧ 128 ≤ (0x80#8).toNat ∧ (0x01#8) ≠ 0 ∧
    (4 ≤ 4 ∧ 4 ≤ 43 ∧ 4 % 4 = 0) ∧ (4 ≤ 40 ∧ 40 ≤ 43 ∧ 40 % 4 = 0) ∧ (4 ≤ 5 ∧ 5 ≤ 43 ∧ 5 % 4 ≠ 0) ∧
    (4 ≤ 43 ∧ 43 ≤ 43 ∧ 43 % 4 ≠ 0) ∧ (3 < 4 ∨ 43 < 3) ∧ (44 < 4 ∨ 43 < 44) := by decide

/-- The bounds on indices of bytes, words, rows, columns and groups at their edges. -/
theorem witness_indices : (0 < 16 ∧ 15 < 16) ∧ (0 < 4 ∧ 3 < 4) ∧ (0 ≤ 10 ∧ 10 ≤ 10) ∧ (4 ≤ 4 ∧ 4 ≤ 43) ∧ (4 ≤ 43 ∧ 43 ≤ 43) := by
  decide

theorem witness_nextRoundKey : (9 ≤ 9 ∧ 1 ≤ 3 ∧ 3 ≤ 3) ∧ (0 ≤ 9 ∧ 1 ≤ 1 ∧ 1 ≤ 3) ∧
    roundKey zeroSchedule 0 = roundKey (expandKey zeroKey) 0 := ⟨by decide, by decide, by rw [zeroSchedule_eq]⟩

theorem witness_addroundkey : 0 ≤ 10 ∧ 10 ≤ 10 ∧
    ∀ n, n < 16 → Schedule.byteAt (Vector.replicate 176 0) (16 * 10 + n) = 0 := by
  refine ⟨by decide, by decide, fun n hn => ?_⟩
  rw [Schedule.byteAt_eq _ (by omega)]
  simp

/-- spec/95 L2.4: four equal columns. -/
theorem witness_shiftrows : ∀ r, r < 4 → ∀ c, c < 4 → ∀ c', c' < 4 →
    Block.at (hex 0xa1b2c3d4a1b2c3d4a1b2c3d4a1b2c3d4) r c = Block.at (hex 0xa1b2c3d4a1b2c3d4a1b2c3d4a1b2c3d4) r c' := by
  decide

/-! ### Whole commands, procedures and the machine -/

theorem witness_loadkeyThenForty : (keyed .done 10 []).busy = false ∧ (keyed .done 10 []).host = [] ∧ 39 < 40 ∧ 176 ≤ 176 :=
  ⟨rfl, rfl, by decide, by decide⟩

theorem witness_encryptThenTwelve :
    ((keyed .idle 0 []).busy = false ∧ (keyed .idle 0 []).keyValid = true ∧ (keyed .idle 0 []).host = [] ∧
      RkHolds (keyed .idle 0 []).RK zeroSchedule 176) ∧
    (State.reset.busy = false ∧ State.reset.keyValid = false) ∧ 0 ≤ 9 ∧ 9 ≤ 9 ∧ 11 < 12 :=
  ⟨⟨rfl, rfl, rfl, rkOf_holds _⟩, ⟨rfl, rfl⟩, by decide, by decide, by decide⟩

theorem witness_encryptBlocksHw : (keyed .round 3 []).Inv ∧ (expanding []).Inv ∧ State.reset.Inv ∧
    [0x01#128, 0x02#128].getLast? = some 0x02#128 ∧ (keyed .round 3 []).noError ∧ State.reset.noError :=
  ⟨keyed_inv _ (by decide) _ (by decide) _, expanding_inv _, reset_inv, rfl, ⟨rfl, rfl⟩, rfl, rfl⟩

theorem witness_encryptBlocks :
    (State.reset.Inv ∧ (List.replicate 16 (0x00#8)).length = 16 ∧
      ∀ b ∈ [List.replicate 16 (0xff#8), List.replicate 16 (0x00#8)], b.length = 16) ∧
    (List.replicate 15 (0x00#8)).length ≠ 16 ∧ (List.replicate 17 (0x00#8)).length ≠ 16 ∧
    (List.replicate 16 (0x00#8)).length = 16 ∧
    ∃ b ∈ [List.replicate 16 (0x00#8), List.replicate 15 (0x00#8)], b.length ≠ 16 :=
  ⟨⟨reset_inv, by decide, by decide⟩, by decide, by decide, by decide, by decide⟩

theorem witness_blocksAreIndependent : (keyed .done 10 []).Inv ∧ State.reset.Inv ∧
    [0x01#128, 0x02#128][1]? = [0x03#128, 0x02#128][1]? ∧ [0x01#128][5]? = [0x03#128, 0x02#128][5]? :=
  ⟨keyed_inv _ (by decide) _ (by decide) _, reset_inv, rfl, rfl⟩

theorem witness_everyStep : (keyed .done 10 []).Inv ∧ step (keyed .done 10 []) = .next (keyed .done 10 []) :=
  ⟨keyed_inv _ (by decide) _ (by decide) _, rfl⟩

theorem witness_resetEvent : (keyed .round 5 [.rst, .core]).host = .rst :: [.core] := rfl

theorem witness_busyCore : (keyed .initial 0 []).Inv ∧ (keyed .initial 0 []).host = [] ∧ (keyed .initial 0 []).busy = true ∧
    (expanding []).Inv ∧ (expanding []).host = [] :=
  ⟨keyed_inv _ (by decide) _ (by decide) _, rfl, rfl, expanding_inv _, rfl⟩

/-- Two states with other data and the same control part. -/
theorem witness_control : (keyed .initial 3 []).Inv ∧ ({ keyed .initial 3 [] with S := Vector.replicate 16 0xff, dout := 1 } : State).Inv ∧
    (keyed .initial 3 []).control = ({ keyed .initial 3 [] with S := Vector.replicate 16 0xff, dout := 1 } : State).control ∧
    (keyed .initial 3 []).host = [] ∧ cmdField (commandWord 0b10#2 0) = cmdField (commandWord 0b10#2 1) := by
  have h := keyed_inv .initial (by decide) 3 (by decide) []
  exact ⟨h, ⟨h.1, h.2, h.3, h.4, h.5, h.6, h.7, h.8⟩, rfl, rfl, by decide⟩

/-- Both flags set, a turn that is no reset, and a step; the reset event; and the two commands that set a flag. -/
theorem witness_errorFlags :
    (∀ rest, ({ State.reset with errNokey := true, errBadcmd := true, host := [.core] } : State).host ≠ .rst :: rest) ∧
    step { State.reset with errNokey := true, errBadcmd := true, host := [.core] } =
      .next { State.reset with errNokey := true, errBadcmd := true } ∧
    exec (.nop 0) { State.reset with errNokey := true, errBadcmd := true } =
      .next { State.reset with errNokey := true, errBadcmd := true } ∧
    (keyed .done 10 [.rst]).host = .rst :: [] ∧ State.reset.busy = false ∧ State.reset.keyValid = false :=
  ⟨by simp, rfl, rfl, rfl, rfl, rfl⟩

/-- A finished result and a host that reads it, or presents a command that is no `LOADKEY` and no `ENCRYPT`. -/
theorem witness_resultStays :
    ((keyed .done 10 [.readDout]).Inv ∧ (keyed .done 10 [.readDout]).doutValid = true ∧
      step (keyed .done 10 [.readDout]) = .next ((keyed .done 10 [.readDout]).recordDout.setHost [])) ∧
    ((keyed .done 10 [.present (commandWord 0b11#2 0)]).Inv ∧ cmdField (commandWord 0b11#2 0) = 0b11#2 ∧
      (keyed .done 10 [.present (commandWord 0b11#2 0)]).doutValid = true ∧
      ∃ t, step (keyed .done 10 [.present (commandWord 0b11#2 0)]) = .next t) :=
  ⟨⟨keyed_inv _ (by decide) _ (by decide) _, rfl, rfl⟩, keyed_inv _ (by decide) _ (by decide) _, by decide, rfl, ⟨_, rfl⟩⟩

/-- A function, a command, and the steps that raise `key_valid` and `dout_valid`, each answering a next state. -/
theorem witness_writers : (∃ t, exec (.sbox 0) State.reset = .next t) ∧ (∃ t, exec (.rsvd 0) State.reset = .next t) ∧
    nextAnd (exec .kxStep (kxState 43 #v[0, 0, 0, 0] #v[0, 0, 0, 0])) (fun t => t.keyValid) = true ∧
    (kxState 43 #v[0, 0, 0, 0] #v[0, 0, 0, 0]).keyValid = false ∧
    nextAnd (exec .rndDone (roundTen zeroKey)) (fun t => t.doutValid) = true ∧ (roundTen zeroKey).doutValid = false :=
  ⟨⟨_, rfl⟩, ⟨_, rfl⟩, by decide, rfl, rfl, rfl⟩

theorem witness_memory : 172 + 4 ≤ 176 ∧ 0 + 176 ≤ 176 ∧ Memory.wf State.reset.RK = true := by decide

end Sys2Proof.Tests
end

section
/-! SUPPORT. What an instruction did when it answers a next state, by the kind of row it is, and what the core's turn leaves of
the error flags. -/

namespace Sys2Proof.Machine

/-- A sequencer step moved the core, a function gave a value back, a command was presented, or a host procedure ran (R61). -/
theorem exec_next_cases {i : Instr} {s t : State} (h : exec i s = .next t) :
    execSeq i s = .next t ∨
      (∃ r, t = s.setResult r) ∨
      (∃ din, i = .nop din ∧ t = s) ∨
      (∃ din, i = .loadkey din ∧ execLoadkey din s = .next t) ∨
      (∃ din, i = .encrypt din ∧ execEncrypt din s = .next t) ∨
      (∃ din, i = .rsvd din ∧ execRsvd din s = .next t) ∨
      (∃ k vs, i = .encryptblockshw k vs ∧ execEncryptblockshw k vs s = .next t) ∨
      (∃ key blocks, i = .encryptblocks key blocks ∧ execEncryptblocks key blocks s = .next t) := by
  cases i with
  | nop din =>
    have ht : s = t := by simpa [exec, execNop, accept] using h
    exact .inr (.inr (.inl ⟨din, rfl, ht.symm⟩))
  | loadkey din => exact .inr (.inr (.inr (.inl ⟨din, rfl, h⟩)))
  | encrypt din => exact .inr (.inr (.inr (.inr (.inl ⟨din, rfl, h⟩))))
  | rsvd din => exact .inr (.inr (.inr (.inr (.inr (.inl ⟨din, rfl, h⟩)))))
  | encryptblockshw k vs => exact .inr (.inr (.inr (.inr (.inr (.inr (.inl ⟨k, vs, rfl, h⟩))))))
  | encryptblocks key blocks => exact .inr (.inr (.inr (.inr (.inr (.inr (.inr ⟨key, blocks, rfl, h⟩))))))
  | kxStep | rndInit | rndFull | rndFinal | rndDone => exact .inl h
  | rcon j =>
    simp only [exec, execRcon] at h
    split at h
    · exact .inr (.inl ⟨_, by simpa using h.symm⟩)
    · simp at h
  | kexpword n p q =>
    simp only [exec, execKexpword] at h
    split at h
    · exact .inr (.inl ⟨_, by simpa using h.symm⟩)
    · simp at h
  | addroundkey g st r =>
    simp only [exec, execAddroundkey] at h
    split at h
    · exact .inr (.inl ⟨_, by simpa using h.symm⟩)
    · simp at h
  | sbox | xtime | rotword | subword | expandkey | subbytes | shiftrows | mixcolumns | unpack | pack | unpackkey | cipher =>
    exact .inr (.inl ⟨_, (Host.Outcome.next.inj h).symm⟩)

/-- No sequencer step writes an error flag (R107 to R111). -/
theorem execSeq_flags {i : Instr} {s t : State} (h : execSeq i s = .next t) :
    t.errNokey = s.errNokey ∧ t.errBadcmd = s.errBadcmd := by
  unfold execSeq at h
  split at h
  · obtain ⟨-, -, -, p, q, rk, -, -, -, ⟨-, rfl⟩ | ⟨-, rfl⟩⟩ := execKxStep_next h <;> simp
  · obtain ⟨-, k, -, rfl⟩ := execRndInit_next h
    simp
  · obtain ⟨-, -, k, -, rfl⟩ := execRndFull_next h
    simp
  · obtain ⟨-, -, k, -, rfl⟩ := execRndFinal_next h
    simp
  · obtain ⟨-, -, rfl⟩ := execRndDone_next h
    simp
  · simp at h

/-- The core's turn writes no error flag (R113). -/
theorem coreTurn_flags {s t : State} (h : coreTurn exec s = .next t) :
    t.errNokey = s.errNokey ∧ t.errBadcmd = s.errBadcmd := by
  obtain ⟨i, hsel, hi⟩ | ⟨-, rfl⟩ := coreTurn_next h
  · exact execSeq_flags ((execSeq_eq_exec hsel s).trans hi)
  · exact ⟨rfl, rfl⟩

end Sys2Proof.Machine
end

section
/-! SUPPORT and PROOF. No operation but reset clears an error flag (R19): each keeps the relation `FlagsKept`, and a host procedure,
which is a sequence of commands and core steps, keeps what they keep. -/

namespace Sys2Proof.Machine

/-- Each error flag that is set in `s` is set in `t` (R19). -/
def FlagsKept (s t : State) : Prop :=
  (s.errNokey = true → t.errNokey = true) ∧ (s.errBadcmd = true → t.errBadcmd = true)

theorem FlagsKept.refl (s : State) : FlagsKept s s := ⟨id, id⟩

theorem FlagsKept.trans {s t u : State} (hst : FlagsKept s t) (htu : FlagsKept t u) : FlagsKept s u :=
  ⟨htu.1 ∘ hst.1, htu.2 ∘ hst.2⟩

theorem FlagsKept.of_eq {s t : State} (h : t.errNokey = s.errNokey ∧ t.errBadcmd = s.errBadcmd) : FlagsKept s t :=
  ⟨h.1.trans, h.2.trans⟩

/-- Raising an error sets at most one flag and clears none (R143). -/
theorem flagsKept_raise (s : State) (e : ErrorCause) : FlagsKept s (s.raise e) := by
  cases e <;> simp [FlagsKept]

theorem flagsKept_setResult (s : State) (r : Result) : FlagsKept s (s.setResult r) := .of_eq ⟨rfl, rfl⟩

theorem flagsKept_coreTurn {s t : State} (h : coreTurn exec s = .next t) : FlagsKept s t := .of_eq (coreTurn_flags h)

theorem flagsKept_execLoadkey {k : Packed} {s t : State} (h : execLoadkey k s = .next t) : FlagsKept s t := by
  obtain ⟨-, rfl⟩ | ⟨-, rk, -, rfl⟩ := execLoadkey_next h
  · exact .refl _
  · exact .of_eq ⟨rfl, rfl⟩

theorem flagsKept_execEncrypt {v : Packed} {s t : State} (h : execEncrypt v s = .next t) : FlagsKept s t := by
  obtain ⟨-, rfl⟩ | ⟨-, -, rfl⟩ | ⟨-, -, rfl⟩ := execEncrypt_next h
  · exact .refl _
  · exact .of_eq ⟨State.startBlock_errNokey .., State.startBlock_errBadcmd ..⟩
  · exact flagsKept_raise s .noKey

theorem flagsKept_execRsvd {v : Packed} {s t : State} (h : execRsvd v s = .next t) : FlagsKept s t := by
  obtain ⟨-, rfl⟩ | ⟨-, rfl⟩ := execRsvd_next v h
  · exact .refl _
  · exact flagsKept_raise s .reservedCommand

theorem flagsKept_runBatch {k : Packed} {vs : List Packed} {ret : List Packed → Result} {s t : State}
    (h : runBatch k vs ret s = .next t) : FlagsKept s t :=
  runBatch_next (Q := FlagsKept s)
    (fun _ _ _ hs hu => hs.trans (flagsKept_coreTurn hu))
    (fun _ _ _ hs hu => hs.trans (flagsKept_execLoadkey hu))
    (fun _ _ _ hs hu => hs.trans (flagsKept_execEncrypt hu))
    (fun u r hs => hs.trans (flagsKept_setResult u r))
    h (.refl s)

theorem flagsKept_execEncryptblocks {key : List Byte} {blocks : List (List Byte)} {s t : State}
    (h : execEncryptblocks key blocks s = .next t) : FlagsKept s t := by
  obtain ⟨-, rfl⟩ | ⟨-, -, rfl⟩ | ⟨-, -, hrun⟩ := execEncryptblocks_next h
  · exact flagsKept_raise s .invalidKeyLength
  · exact flagsKept_raise s .invalidBlockLength
  · exact flagsKept_runBatch hrun

/-- No instruction clears an error flag (R19). -/
theorem flagsKept_exec {i : Instr} {s t : State} (h : exec i s = .next t) : FlagsKept s t := by
  obtain hseq | ⟨r, rfl⟩ | ⟨_, -, rfl⟩ | ⟨_, -, hi⟩ | ⟨_, -, hi⟩ | ⟨_, -, hi⟩ | ⟨_, _, -, hi⟩ | ⟨_, _, -, hi⟩ :=
    exec_next_cases h
  · exact .of_eq (execSeq_flags hseq)
  · exact flagsKept_setResult s r
  · exact .refl _
  · exact flagsKept_execLoadkey hi
  · exact flagsKept_execEncrypt hi
  · exact flagsKept_execRsvd hi
  · exact flagsKept_runBatch hi
  · exact flagsKept_execEncryptblocks hi

/-- No step but the reset event clears an error flag (R19). Taking a turn off the host's list leaves the flags as they are. -/
theorem flagsKept_step {s t : State} (hrst : ∀ rest, s.host ≠ .rst :: rest) (h : step s = .next t) : FlagsKept s t := by
  have hpop (rest : List HostEvent) : FlagsKept s (s.setHost rest) := .of_eq ⟨rfl, rfl⟩
  obtain ⟨hcore, -⟩ | ⟨rest, -, hcore⟩ | ⟨_, rest, -, hcmd⟩ | ⟨rest, -, -, rfl⟩ | ⟨rest, -, -, rfl⟩ | ⟨rest, hhost, -⟩ |
    ⟨_, _, rest, -, hrun⟩ | ⟨_, _, rest, -, hrun⟩ := step_cases h
  · exact flagsKept_coreTurn hcore
  · exact (hpop rest).trans (flagsKept_coreTurn hcore)
  · exact (hpop rest).trans (flagsKept_exec hcmd)
  · exact hpop rest
  · exact .of_eq ⟨rfl, rfl⟩
  · exact absurd hhost (hrst rest)
  · exact (hpop rest).trans (flagsKept_runBatch hrun)
  · exact (hpop rest).trans (flagsKept_execEncryptblocks hrun)

/-- The turn of the reset event (R155). -/
theorem step_rst {s : State} {rest : List HostEvent} (h : s.host = .rst :: rest) :
    step s = .next (s.takeReset.setHost rest) := by
  simp [step, h]

/-- `ENCRYPT` at a ready core without a complete schedule raises `NoKey` (R138). -/
theorem exec_encrypt_noKey {s : State} (din : Packed) (hready : s.busy = false) (hkey : s.keyValid = false) :
    exec (.encrypt din) s = .next (s.raise .noKey) := by
  simp [exec, execEncrypt, accept_ready hready, hkey]

/-- The reserved command at a ready core raises `ReservedCommand` (R139). -/
theorem exec_rsvd_ready {s : State} (din : Packed) (hready : s.busy = false) :
    exec (.rsvd din) s = .next (s.raise .reservedCommand) := by
  simp [exec, execRsvd, accept_ready hready]

/-- Settles O56: every step but reset, and every instruction, keeps `FlagsKept`; the reset event clears both flags, and the two
raising commands set one each. -/
theorem errorFlagsAreSticky : Obligations.ErrorFlagsAreSticky := by
  refine ⟨fun _ _ => flagsKept_step, fun _ _ _ => flagsKept_exec, ?reset, ?noKey, ?reserved, rfl, rfl⟩
  case reset =>
    intro s rest h
    exact ⟨_, step_rst h, rfl, rfl⟩
  case noKey =>
    intro s din hready hkey
    exact ⟨_, exec_encrypt_noKey din hready hkey, rfl⟩
  case reserved =>
    intro s din hready
    exact ⟨_, exec_rsvd_ready din hready, rfl⟩

end Sys2Proof.Machine
end

section
/-! SUPPORT and PROOF. Which flag each bit of `STATUS` shows (R20). -/

namespace Sys2Proof.Machine

/-- The flag each bit of `STATUS` shows (R20). -/
theorem State.status_getLsbD (s : State) :
    s.status.getLsbD 0 = s.busy ∧ s.status.getLsbD 1 = s.keyValid ∧ s.status.getLsbD 2 = s.doutValid ∧
      s.status.getLsbD 3 = s.errNokey ∧ s.status.getLsbD 4 = s.errBadcmd := by
  unfold State.status
  repeat rw [BitVec.getLsbD_append]
  simp

theorem State.status_reset : State.reset.status = 0b00000#5 := rfl

/-- Settles O59: `busy` by phase, and `STATUS` bit by bit. -/
theorem statusShowsTheFlags : Obligations.StatusShowsTheFlags := by
  intro s
  obtain ⟨hbusy, hkey, hdout, hnokey, hbadcmd⟩ := s.status_getLsbD
  exact ⟨s.busy_iff, s.busy_eq_false_iff, hbusy, hkey, hdout, hnokey, hbadcmd, State.status_reset⟩

end Sys2Proof.Machine
end

section
/-! PROOF. The sequencer's decode table (R56): one row per core step, and exactly one row for a busy state that keeps the
invariant. -/

namespace Sys2Proof.Machine

/-- In `IDLE` and `DONE` no row of the table applies (R113). -/
theorem selected_none_of_idle_or_done {s : State} (h : s.phase = .idle ∨ s.phase = .done) : s.selected = none :=
  selected_none_of_ready (s.busy_eq_false_iff.2 h)

/-- Under the invariant only `IDLE` and `DONE` select no step: in every other phase the bounds on `round` and `widx` put the
state in a row of the table (R15, R16, R25, R56). -/
theorem idle_or_done_of_selected_none {s : State} (hinv : s.Inv) (hnone : s.selected = none) :
    s.phase = .idle ∨ s.phase = .done := by
  have hno {i : Instr} (hi : s.selected = some i) : False := by simp [hnone] at hi
  cases hphase : s.phase with
  | idle => exact .inl rfl
  | done => exact .inr rfl
  | keyexp => exact (hno ((selected_kxStep s).2 ⟨hphase, hinv.widx_range hphase⟩)).elim
  | initial => exact (hno ((selected_rndInit s).2 hphase)).elim
  | round =>
    have hround : s.round.toNat ≤ 8 ∨ s.round.toNat = 9 ∨ s.round.toNat = 10 := by
      have := hinv.round_le hphase
      omega
    obtain hfull | hfinal | hdone := hround
    · exact (hno ((selected_rndFull s).2 ⟨hphase, hfull⟩)).elim
    · exact (hno ((selected_rndFinal s).2 ⟨hphase, hfinal⟩)).elim
    · exact (hno ((selected_rndDone s).2 ⟨hphase, hdone⟩)).elim

/-- Settles O4: the rows of the table one by one, and under the invariant one of them in every busy phase. -/
theorem sequencerRegistersSelectTheStep : Obligations.SequencerRegistersSelectTheStep :=
  ⟨selected_kxStep, selected_rndInit, selected_rndFull, selected_rndFinal, selected_rndDone,
    fun _ => selected_none_of_idle_or_done, fun _ => idle_or_done_of_selected_none⟩

end Sys2Proof.Machine
end

section
/-! SUPPORT and PROOF. The S-box takes every byte value, each once (R66). The value set of a table is gathered in the bits of one
natural number, so the check of the 256 entries reads each of them once. -/

namespace Sys2Proof

/-- The values of a table as the set bits of a number: bit `n` is set when byte `n` occurs. -/
def valueBits : List Byte → Nat
  | [] => 0
  | b :: l => 2 ^ b.toNat ||| valueBits l

theorem testBit_valueBits (l : List Byte) (c : Byte) : (valueBits l).testBit c.toNat = true ↔ c ∈ l := by
  induction l with
  | nil => simp [valueBits]
  | cons b l ih =>
    have hhead : b.toNat = c.toNat ↔ c = b := by rw [BitVec.toNat_inj, eq_comm]
    simp only [valueBits, Nat.testBit_or, Nat.testBit_two_pow, Bool.or_eq_true, decide_eq_true_eq, ih, hhead, List.mem_cons]

set_option maxRecDepth 20000 in
theorem valueBits_sboxTable : valueBits sboxTable = 2 ^ 256 - 1 := by decide

/-- Every byte value is an entry of the table. -/
theorem mem_sboxTable (c : Byte) : c ∈ sboxTable := by
  rw [← testBit_valueBits, valueBits_sboxTable, Nat.testBit_two_pow_sub_one]
  simpa using c.isLt

theorem sbox_surjective : Function.Surjective sbox := by
  intro c
  obtain ⟨i, hi, rfl⟩ := List.mem_iff_getElem.1 (mem_sboxTable c)
  have hbyte : i < 2 ^ 8 := by simpa [Machine.sboxTable_length] using hi
  refine ⟨BitVec.ofNat 8 i, ?_⟩
  rw [sbox, BitVec.toNat_ofNat, Nat.mod_eq_of_lt hbyte, List.getD_eq_getElem _ _ hi]

theorem sbox_bijective : Function.Bijective sbox := sbox_surjective.bijective_of_finite

theorem sbox_eq_zero_iff (b : Byte) : sbox b = 0x00 ↔ b = 0x52 := by
  have h52 : sbox 0x52 = 0x00 := rfl
  rw [← h52, sbox_bijective.injective.eq_iff]

end Sys2Proof

namespace Sys2Proof.Machine

/-- Settles O22: the lookup is `memRead_sbox`, and the table takes all 256 values, so on bytes it is a bijection. -/
theorem sboxLooksUpTheTable : Obligations.SboxLooksUpTheTable :=
  ⟨fun _ _ => rfl, fun b s => memRead_sbox s b, rfl, sbox_eq_zero_iff, sbox_bijective, rfl⟩

end Sys2Proof.Machine
end

section
/-! SUPPORT and PROOF. The round constants: the lookup and the recurrence of its entries (R67, R68). -/

namespace Sys2Proof.Machine

/-- `RCON` gives back the table's entry, for every index inside the table (R68). -/
theorem exec_rcon {j : Nat} (s : State) (h : j ≤ 10) : exec (.rcon j) s = .next (s.setResult (.byte (rcon j))) := by
  simp [exec, execRcon, memRead_rcon h]

/-- Each round constant is the doubling of the one before (R67). Entry 0 is a free value and takes no part. -/
theorem rcon_succ {j : Nat} (h1 : 1 ≤ j) (h9 : j ≤ 9) : rcon (j + 1) = xtime (rcon j) := by
  interval_cases j <;> rfl

/-- Settles O24: inside the table the lookup answers, and its entries double from `01`. -/
theorem rconLooksUpTheTable : Obligations.RconLooksUpTheTable :=
  ⟨fun _ s _ h10 => ⟨exec_rcon s h10, memRead_rcon h10⟩, rfl, fun _ => rcon_succ, rfl, rfl⟩

end Sys2Proof.Machine
end

section
/-! SUPPORT and PROOF. The field doubling (R69) and the products by 1, 2 and 3 (R70). -/

namespace Sys2Proof

/-- The high bit of a byte by its value. -/
theorem getLsbD_seven_iff (b : Byte) : b.getLsbD 7 = true ↔ 128 ≤ b.toNat := by
  rw [← BitVec.msb_eq_getLsbD_last b, BitVec.msb_eq_decide, decide_eq_true_iff]

/-- With the high bit clear the doubling is the shift (R69). -/
theorem xtime_of_lt {b : Byte} (h : b.toNat < 128) : xtime b = b <<< 1 :=
  if_neg fun hb => Nat.not_le.2 h ((getLsbD_seven_iff b).1 hb)

/-- With the high bit set the shift is reduced by the field constant (R69). -/
theorem xtime_of_ge {b : Byte} (h : 128 ≤ b.toNat) : xtime b = b <<< 1 ^^^ 0x1b :=
  if_pos ((getLsbD_seven_iff b).2 h)

theorem toNat_xtime_of_lt {b : Byte} (h : b.toNat < 128) : (xtime b).toNat = 2 * b.toNat := by
  rw [xtime_of_lt h]
  bv_omega

theorem xtime_eq_ofNat_of_ge {b : Byte} (h : 128 ≤ b.toNat) : xtime b = BitVec.ofNat 8 (2 * b.toNat - 256) ^^^ 0x1b := by
  have hshift : b <<< 1 = BitVec.ofNat 8 (2 * b.toNat - 256) := by bv_omega
  rw [xtime_of_ge h, hshift]

/-- The doubling as one sum: the shift and, for a set high bit, the field constant. -/
theorem xtime_eq_shift_xor (b : Byte) : xtime b = b <<< 1 ^^^ bif b.getLsbD 7 then 0x1b else 0 := by
  unfold xtime
  cases b.getLsbD 7
  · exact BitVec.xor_zero.symm
  · rfl

/-- Doubling distributes over the field's addition. -/
theorem xtime_xor (a b : Byte) : xtime (a ^^^ b) = xtime a ^^^ xtime b := by
  have hconst (p q : Bool) : (bif p ^^ q then (0x1b : Byte) else 0) = (bif p then 0x1b else 0) ^^^ bif q then 0x1b else 0 := by
    cases p <;> cases q <;> rfl
  simp only [xtime_eq_shift_xor, BitVec.getLsbD_xor, hconst, BitVec.shiftLeft_xor_distrib]
  ac_rfl

/-- Only zero doubles to zero: with the high bit set the shifted value is even and the field constant is odd. -/
theorem xtime_eq_zero_iff {b : Byte} : xtime b = 0x00 ↔ b = 0x00 := by
  constructor
  · intro h
    obtain hlow | hhigh := Nat.lt_or_ge b.toNat 128
    · have hdouble : (xtime b).toNat = 2 * b.toNat := toNat_xtime_of_lt hlow
      rw [h] at hdouble
      bv_omega
    · rw [xtime_eq_ofNat_of_ge hhigh] at h
      have hodd : BitVec.ofNat 8 (2 * b.toNat - 256) = 0x1b := BitVec.xor_eq_zero_iff.1 h
      bv_omega
  · rintro rfl
    rfl

theorem xtime_injective : Function.Injective xtime := by
  intro a b h
  have hsum : xtime (a ^^^ b) = 0x00 := by
    rw [xtime_xor, h]
    exact BitVec.xor_self
  exact BitVec.xor_eq_zero_iff.1 (xtime_eq_zero_iff.1 hsum)

theorem xtime_bijective : Function.Bijective xtime := xtime_injective.bijective_of_finite

/-- The general product by 1, 2 and 3 keeps the summands of the multiplier's set bits (R70, R72). -/
theorem gmul_one (b : Byte) : gmul b 0x01 = b := by simp [gmul, List.range_succ, xtimes]

theorem gmul_two (b : Byte) : gmul b 0x02 = xtime b := by simp [gmul, List.range_succ, xtimes]

theorem gmul_three (b : Byte) : gmul b 0x03 = xtime b ^^^ b := by
  simp [gmul, List.range_succ, xtimes, BitVec.xor_comm]

end Sys2Proof

namespace Sys2Proof.Machine

/-- Settles O25: the two cases of the high bit, the doubling as an injective map on bytes, and the three products; the values
the rules list are evaluations. -/
theorem xtimeDoublesInTheField : Obligations.XtimeDoublesInTheField := by
  refine ⟨fun _ _ => rfl, fun _ => toNat_xtime_of_lt, fun _ => xtime_eq_ofNat_of_ge, rfl, rfl, rfl, rfl, rfl, xtime_bijective,
    rfl, rfl, ?mul, ?product, rfl, rfl, rfl, rfl, rfl, rfl⟩
  case mul => exact fun _ => ⟨rfl, rfl, rfl⟩
  case product => exact fun b => ⟨(gmul_one b).symm, (gmul_two b).symm, (gmul_three b).symm⟩

end Sys2Proof.Machine
end

section
/-! SUPPORT and PROOF. The operations on words: RotWord, SubWord (R75, R76), and one word of the schedule (R77). -/

namespace Sys2Proof

/-- Four rotations bring every byte back to its place. -/
theorem rotWord_four (t : Word) : rotWord (rotWord (rotWord (rotWord t))) = t :=
  Vector.ext fun j hj => by interval_cases j <;> rfl

/-- Three more rotations undo one. -/
theorem rotWord_bijective : Function.Bijective rotWord :=
  Function.bijective_iff_has_inverse.2 ⟨fun t => rotWord (rotWord (rotWord t)), rotWord_four, rotWord_four⟩

/-- At a new group: rotate, substitute, add the constant to the first byte, add the word four back. -/
theorem kexpWord_of_mod_eq {i : Nat} (h : i % 4 = 0) (p q : Word) :
    kexpWord i p q =
      #v[sbox p[1] ^^^ rcon (i / 4) ^^^ q[0], sbox p[2] ^^^ q[1], sbox p[3] ^^^ q[2], sbox p[0] ^^^ q[3]] := by
  rw [kexpWord, if_pos h]
  rfl

/-- Inside a group: the word before plus the word four back. -/
theorem kexpWord_of_mod_ne {i : Nat} (h : i % 4 ≠ 0) (p q : Word) : kexpWord i p q = xorWord p q := if_neg h

end Sys2Proof

namespace Sys2Proof.Machine

/-- `KEXPWORD` gives back the word, for every index of a word that is computed (R77). -/
theorem exec_kexpword {i : Nat} (h4 : 4 ≤ i) (h43 : i ≤ 43) (p q : Word) (s : State) :
    exec (.kexpword i p q) s = .next (s.setResult (.word (kexpWord i p q))) := if_pos ⟨h4, h43⟩

/-- Settles O26: RotWord's fourth power is the identity; the values the rules list are evaluations. -/
theorem rotwordAndSubwordActOnWords : Obligations.RotwordAndSubwordActOnWords :=
  ⟨fun _ _ => rfl, fun _ => rfl, rotWord_bijective, rfl, fun _ _ => rfl, rfl, rfl⟩

/-- Settles O27: one equation of `kexpWord` for each kind of index; the worked examples are evaluations. -/
theorem kexpwordComputesOneWord : Obligations.KexpwordComputesOneWord := by
  refine ⟨?newGroup, ?insideGroup, rfl, rfl, rfl, rfl, rfl⟩
  case newGroup =>
    intro i p q s h4 h43 hmod
    rw [exec_kexpword h4 h43, kexpWord_of_mod_eq hmod, State.setResult]
  case insideGroup =>
    intro i p q s h4 h43 hmod
    rw [exec_kexpword h4 h43, kexpWord_of_mod_ne hmod, State.setResult, xorWord]

end Sys2Proof.Machine
end

section
/-! SUPPORT and PROOF. The schedule: the key in its first group, and the recurrence of its words (R78). -/

namespace Sys2Proof

/-- Replacing a word and reading it. -/
theorem Schedule.wordAt_setWord_same (r : Schedule) {i : Nat} (hi : i < 44) (w : Word) :
    Schedule.wordAt (Schedule.setWord r i w) i = w := by
  refine Vector.ext fun j hj => ?_
  have hword : (4 * i + j) / 4 = i := by omega
  have hbyte : (4 * i + j) % 4 = j := by omega
  rw [Schedule.wordAt_get _ _ hj, Schedule.byteAt_setWord _ _ _ (by omega), if_pos hword, hbyte]
  simp [List.getD, hj]

/-- The first group of a schedule is the key byte for byte. -/
theorem byteAt_expandKey_key (k : Block) {n : Nat} (hn : n < 16) : Schedule.byteAt (expandKey k) n = k[n] := by
  rw [byteAt_expandKey k (Nat.zero_le 40) hn (by omega), expandTo, byteAt_keyGroup k hn]

/-- The step that computes word `n + 4` writes it from the schedule so far, whose words it reads are final. -/
theorem wordAt_expandKey_add_four (k : Block) {n : Nat} (hn : n < 40) :
    Schedule.wordAt (expandKey k) (n + 4) =
      kexpWord (n + 4) (Schedule.wordAt (expandKey k) (n + 3)) (Schedule.wordAt (expandKey k) n) := by
  rw [wordAt_expandKey k (n := n + 1) (i := n + 4) hn (by omega), expandTo, Schedule.wordAt_setWord_same _ (by omega),
    wordAt_expandKey k (n := n) (i := n + 3) (by omega) (by omega),
    wordAt_expandKey k (n := n) (i := n) (by omega) (by omega)]

/-- The first word of a new group. -/
theorem wordAt_expandKey_newGroup (k : Block) {g : Nat} (hg : g ≤ 9) :
    Schedule.wordAt (expandKey k) (4 * (g + 1)) =
      kexpWord (4 * (g + 1)) (Schedule.wordAt (expandKey k) (4 * g + 3)) (Schedule.wordAt (expandKey k) (4 * g)) :=
  wordAt_expandKey_add_four k (n := 4 * g) (by omega)

/-- The other three words of a new group. -/
theorem wordAt_expandKey_insideGroup (k : Block) {g j : Nat} (hg : g ≤ 9) (hj : j < 3) :
    Schedule.wordAt (expandKey k) (4 * (g + 1) + (j + 1)) =
      xorWord (Schedule.wordAt (expandKey k) (4 * (g + 1) + j)) (Schedule.wordAt (expandKey k) (4 * g + (j + 1))) := by
  have hstep := wordAt_expandKey_add_four k (n := 4 * g + (j + 1)) (by omega)
  have hnew : 4 * g + (j + 1) + 4 = 4 * (g + 1) + (j + 1) := by omega
  have hbefore : 4 * g + (j + 1) + 3 = 4 * (g + 1) + j := by omega
  rwa [hnew, hbefore, kexpWord_of_mod_ne (by omega)] at hstep

/-- A round key byte by byte in the words of its group. -/
theorem roundKey_get_wordAt (r : Schedule) (g : Nat) {n : Nat} (hn : n < 16) :
    (roundKey r g)[n] = (Schedule.wordAt r (4 * g + n / 4))[n % 4] := by
  rw [roundKey_get _ _ hn, Schedule.wordAt_get]
  congr 1
  omega

/-- Two round keys are the same exactly when the four words of their groups are. -/
theorem roundKey_eq_iff {r r' : Schedule} {g g' : Nat} :
    roundKey r g = roundKey r' g' ↔
      ∀ j, j < 4 → Schedule.wordAt r (4 * g + j) = Schedule.wordAt r' (4 * g' + j) := by
  constructor
  · intro h j hj
    refine Vector.ext fun b hb => ?_
    have hbyte : (roundKey r g)[4 * j + b] = (roundKey r' g')[4 * j + b] := by rw [h]
    rw [roundKey_get_wordAt, roundKey_get_wordAt] at hbyte
    have hword : (4 * j + b) / 4 = j := by omega
    have hmod : (4 * j + b) % 4 = b := by omega
    simpa only [hword, hmod] using hbyte
  · intro h
    refine block_ext fun n hn => ?_
    have hword := h (n / 4) (by omega)
    simp only [roundKey_get_wordAt _ _ hn, hword]

/-- Group 0 is the key. -/
theorem roundKey_expandKey_zero (k : Block) : roundKey (expandKey k) 0 = k :=
  block_ext fun n hn => by rw [roundKey_get _ _ hn, Nat.mul_zero, Nat.zero_add, byteAt_expandKey_key k hn]

/-- Schedules of two keys that agree in a group agree in the next: its words one after the other are functions of words that
agree. -/
theorem roundKey_expandKey_succ_congr {k k' : Block} {g : Nat} (hg : g ≤ 9)
    (h : roundKey (expandKey k) g = roundKey (expandKey k') g) :
    roundKey (expandKey k) (g + 1) = roundKey (expandKey k') (g + 1) := by
  have hgroup := roundKey_eq_iff.1 h
  refine roundKey_eq_iff.2 fun j hj => ?_
  induction j with
  | zero =>
    have hfirst := hgroup 0 (by omega)
    have hlast := hgroup 3 (by omega)
    rw [Nat.add_zero] at hfirst ⊢
    rw [wordAt_expandKey_newGroup k hg, wordAt_expandKey_newGroup k' hg, hfirst, hlast]
  | succ j ih =>
    rw [wordAt_expandKey_insideGroup k hg (by omega), wordAt_expandKey_insideGroup k' hg (by omega), ih (by omega), hgroup _ hj]

/-- The first four words of the all-zero key's schedule. -/
theorem wordAt_expandKey_zeroKey {j : Nat} (hj : j < 4) :
    Schedule.wordAt (expandKey (Vector.replicate 16 0)) j = #v[0, 0, 0, 0] := by
  refine Vector.ext fun b hb => ?_
  rw [Schedule.wordAt_get _ _ hb, byteAt_expandKey_key _ (by omega), Vector.getElem_replicate]
  interval_cases b <;> rfl

/-- Every word of group 1 of the all-zero key is the first one, since the words it is added to are zero. -/
theorem wordAt_expandKey_zeroKey_groupOne {j : Nat} (hj : j < 4) :
    Schedule.wordAt (expandKey (Vector.replicate 16 0)) (4 * (0 + 1) + j) = #v[0x62, 0x63, 0x63, 0x63] := by
  induction j with
  | zero =>
    rw [Nat.add_zero, wordAt_expandKey_newGroup _ (Nat.zero_le 9), wordAt_expandKey_zeroKey (by omega),
      wordAt_expandKey_zeroKey (by omega)]
    rfl
  | succ j ih =>
    rw [wordAt_expandKey_insideGroup _ (Nat.zero_le 9) (by omega), ih (by omega), wordAt_expandKey_zeroKey (by omega)]
    rfl

/-- Group 1 of the all-zero key (R78). -/
theorem roundKey_expandKey_zeroKey_one :
    roundKey (expandKey (Vector.replicate 16 0)) 1 =
      #v[0x62, 0x63, 0x63, 0x63, 0x62, 0x63, 0x63, 0x63, 0x62, 0x63, 0x63, 0x63, 0x62, 0x63, 0x63, 0x63] := by
  refine block_ext fun n hn => ?_
  have hword := wordAt_expandKey_zeroKey_groupOne (j := n / 4) (by omega)
  simp only [roundKey_get_wordAt _ _ hn, hword]
  interval_cases n <;> rfl

end Sys2Proof

namespace Sys2Proof.Machine

/-- Settles O28: the key stands in group 0, each later word is the one its own step wrote, and group 1 of the zero key is
computed word by word. -/
theorem expandkeySatisfiesTheRecurrence : Obligations.ExpandkeySatisfiesTheRecurrence := by
  refine ⟨fun _ _ => rfl, fun k _ => byteAt_expandKey_key k, ?recurrence, roundKey_expandKey_zeroKey_one⟩
  case recurrence =>
    intro k i h4 h43
    obtain ⟨n, rfl⟩ := Nat.exists_eq_add_of_le' h4
    exact wordAt_expandKey_add_four k (by omega)

/-- Settles O29: the recurrence of the words read group by group. -/
theorem nextRoundKeyDependsOnThePreviousOne : Obligations.NextRoundKeyDependsOnThePreviousOne := by
  refine ⟨roundKey_expandKey_zero, fun k _ => wordAt_expandKey_newGroup k, ?insideGroup,
    fun _ _ _ => roundKey_expandKey_succ_congr⟩
  case insideGroup =>
    intro k g j hg h1 h3
    obtain ⟨j, rfl⟩ := Nat.exists_eq_add_of_le' h1
    exact wordAt_expandKey_insideGroup k hg h3

end Sys2Proof.Machine
end

section
/-! SUPPORT and PROOF. The round primitives that act byte by byte or move bytes: AddRoundKey (R85), SubBytes (R86) and ShiftRows
(R87). -/

namespace Sys2Proof

/-- Two states with the same byte in every row and column are the same. -/
theorem block_ext_at {s t : Block} (h : ∀ r c, r < 4 → c < 4 → Block.at s r c = Block.at t r c) : s = t := by
  refine block_ext fun n hn => ?_
  have hbyte := h (n % 4) (n / 4) (by omega) (by omega)
  rw [block_at _ (by omega), block_at _ (by omega)] at hbyte
  simpa only [Nat.div_add_mod] using hbyte

theorem xorBlock_at (s k : Block) {r c : Nat} (hr : r < 4) (hc : c < 4) :
    Block.at (xorBlock s k) r c = Block.at s r c ^^^ Block.at k r c := by
  simp only [block_at _ (show 4 * c + r < 16 by omega), xorBlock_get _ _ (show 4 * c + r < 16 by omega)]

/-- Adding a round key twice cancels. -/
theorem addRoundKey_addRoundKey (g : Nat) (s : Block) (r : Schedule) : addRoundKey g (addRoundKey g s r) r = s :=
  block_ext fun n hn => by
    rw [addRoundKey_get _ _ _ hn, addRoundKey_get _ _ _ hn, BitVec.xor_assoc, BitVec.xor_self, BitVec.xor_zero]

theorem addRoundKey_of_zero {g : Nat} {r : Schedule} (s : Block)
    (hzero : ∀ n, n < 16 → Schedule.byteAt r (16 * g + n) = 0) : addRoundKey g s r = s :=
  block_ext fun n hn => by rw [addRoundKey_get _ _ _ hn, hzero n hn]; exact BitVec.xor_zero

theorem addRoundKey_bijective (g : Nat) (r : Schedule) : Function.Bijective fun s => addRoundKey g s r :=
  Function.Involutive.bijective fun s => addRoundKey_addRoundKey g s r

theorem subBytes_replicate (b : Byte) : subBytes (Vector.replicate 16 b) = Vector.replicate 16 (sbox b) :=
  block_ext fun n hn => by rw [subBytes_get _ hn, Vector.getElem_replicate, Vector.getElem_replicate]

/-- The inverse table, byte by byte, undoes SubBytes. -/
theorem subBytes_bijective : Function.Bijective subBytes := by
  obtain ⟨inv, hleft, hright⟩ := Function.bijective_iff_has_inverse.1 sbox_bijective
  refine Function.bijective_iff_has_inverse.2 ⟨Vector.map inv, fun s => ?_, fun s => ?_⟩
  · exact block_ext fun n hn => by rw [Vector.getElem_map, subBytes_get _ hn, hleft]
  · exact block_ext fun n hn => by rw [subBytes_get _ hn, Vector.getElem_map, hright]

/-- ShiftRows takes the byte `r` columns to the right. -/
theorem shiftRows_at (s : Block) {r c : Nat} (hr : r < 4) (hc : c < 4) :
    Block.at (shiftRows s) r c = Block.at s r ((c + r) % 4) := by
  have hrow : (4 * c + r) % 4 = r := by omega
  have hcol : (4 * c + r) / 4 = c := by omega
  rw [block_at _ (by omega), shiftRows_get _ (by omega), hrow, hcol]

/-- Where every row is constant, the rotation moves nothing visible. -/
theorem shiftRows_of_equal_columns {s : Block}
    (h : ∀ r c c', r < 4 → c < 4 → c' < 4 → Block.at s r c = Block.at s r c') : shiftRows s = s :=
  block_ext_at fun r c hr hc => by rw [shiftRows_at s hr hc, h r _ c hr (by omega) hc]

/-- Four rotations by `r` columns bring row `r` back. -/
theorem shiftRows_four (s : Block) : shiftRows (shiftRows (shiftRows (shiftRows s))) = s := by
  refine block_ext_at fun r c hr hc => ?_
  have hcol : ((((c + r) % 4 + r) % 4 + r) % 4 + r) % 4 = c := by omega
  rw [shiftRows_at _ hr hc, shiftRows_at _ hr (by omega), shiftRows_at _ hr (by omega), shiftRows_at _ hr (by omega), hcol]

/-- Three more applications undo one. -/
theorem shiftRows_bijective : Function.Bijective shiftRows :=
  Function.bijective_iff_has_inverse.2 ⟨fun s => shiftRows (shiftRows (shiftRows s)), shiftRows_four, shiftRows_four⟩

end Sys2Proof

namespace Sys2Proof.Machine

/-- `ADDROUNDKEY` gives back the sum, for every round there is (R85). -/
theorem exec_addroundkey {g : Nat} (hg : g ≤ 10) (st : Block) (r : Schedule) (s : State) :
    exec (.addroundkey g st r) s = .next (s.setResult (.block (addRoundKey g st r))) := if_pos hg

/-- Settles O30: the sum byte by byte; the field's addition is its own inverse and has neutral element zero. -/
theorem addroundkeyXorsTheRoundKey : Obligations.AddroundkeyXorsTheRoundKey :=
  ⟨fun _ st r s hg => exec_addroundkey hg st r s, fun g st r _ hn _ => addRoundKey_get g st r hn, addRoundKey_addRoundKey,
    fun _ st _ => addRoundKey_of_zero st⟩

/-- Settles O31: the lookup at every index; the two table entries are evaluations. -/
theorem subbytesSubstitutesEveryByte : Obligations.SubbytesSubstitutesEveryByte :=
  ⟨fun _ _ => rfl, fun st _ => subBytes_get st, subBytes_replicate 0x00, rfl⟩

/-- Settles O32: each corner case is read off the rotation of the rows. -/
theorem shiftrowsRotatesEachRow : Obligations.ShiftrowsRotatesEachRow := by
  refine ⟨fun _ _ => rfl, fun st _ _ => shiftRows_at st, ?rowZero, fun _ => shiftRows_of_equal_columns, shiftRows_four⟩
  case rowZero =>
    intro st c hc
    rw [shiftRows_at st (by omega) hc, Nat.add_zero, Nat.mod_eq_of_lt hc]

end Sys2Proof.Machine
end

section
/-! SUPPORT and PROOF. MixColumns column by column: the fixed matrix, its linearity (R88), and its inverse (R72, R89). -/

namespace Sys2Proof

/-- With associativity and commutativity, the third rule that brings equal summands of a sum (R71) together. -/
theorem byte_xor_left_comm (a b c : Byte) : a ^^^ (b ^^^ c) = b ^^^ (a ^^^ c) := by ac_rfl

/-- A summand shared by two sums cancels. -/
theorem byte_xor_shared (p q t x y : Byte) : (p ^^^ t ^^^ x) ^^^ (q ^^^ t ^^^ y) = (p ^^^ q) ^^^ (x ^^^ y) := by
  simp [BitVec.xor_assoc, BitVec.xor_comm, byte_xor_left_comm]

/-- What is done to column `c` of a state, read at row `k`. -/
theorem mapColumns_at (f : Byte → Byte → Byte → Byte → Word) (s : Block) {k c : Nat} (hk : k < 4) (hc : c < 4) :
    Block.at (mapColumns f s) k c = (f (Block.at s 0 c) (Block.at s 1 c) (Block.at s 2 c) (Block.at s 3 c))[k] := by
  have hcolumn (r : Nat) (hr : r < 4) : Block.at s r c = s[4 * c + r] := block_at s (by omega)
  rw [hcolumn 0 (by omega), hcolumn 1 (by omega), hcolumn 2 (by omega), hcolumn 3 (by omega)]
  interval_cases c <;> interval_cases k <;> rfl

/-- The sum of the four bytes of a column. -/
def Block.columnSum (s : Block) (c : Nat) : Byte := Block.at s 0 c ^^^ Block.at s 1 c ^^^ Block.at s 2 c ^^^ Block.at s 3 c

/-- The sum of a column, counted from any of its rows. -/
theorem columnSum_from (s : Block) {k : Nat} (hk : k < 4) (c : Nat) :
    Block.columnSum s c = Block.at s k c ^^^ Block.at s ((k + 1) % 4) c ^^^ Block.at s ((k + 2) % 4) c ^^^
      Block.at s ((k + 3) % 4) c := by
  rw [Block.columnSum]
  interval_cases k <;> simp [BitVec.xor_assoc, BitVec.xor_comm, byte_xor_left_comm]

/-- Every row of the matrix of R88 is the first one rotated: the byte itself is doubled, the next one tripled. -/
theorem mixColumns_at_row (s : Block) {k c : Nat} (hk : k < 4) (hc : c < 4) :
    Block.at (mixColumns s) k c =
      mul2 (Block.at s k c) ^^^ mul3 (Block.at s ((k + 1) % 4) c) ^^^ Block.at s ((k + 2) % 4) c ^^^
        Block.at s ((k + 3) % 4) c := by
  rw [mixColumns, mapColumns_at _ s hk hc]
  interval_cases k <;> simp [mixColumn, mul1, BitVec.xor_assoc, BitVec.xor_comm, byte_xor_left_comm]

/-- The second form of R88: the byte, the sum of its column, and the doubling of the sum with the next byte. -/
theorem mixColumns_at (s : Block) {k c : Nat} (hk : k < 4) (hc : c < 4) :
    Block.at (mixColumns s) k c =
      Block.at s k c ^^^ Block.columnSum s c ^^^ xtime (Block.at s k c ^^^ Block.at s ((k + 1) % 4) c) := by
  rw [mixColumns_at_row s hk hc, columnSum_from s hk, mul2, mul3, xtime_xor]
  simp [BitVec.xor_assoc, BitVec.xor_comm, byte_xor_left_comm]

/-- In a column of four equal bytes the two summands of the doubled byte cancel. -/
theorem mixColumn_of_equal (b : Byte) : mixColumn b b b b = #v[b, b, b, b] := by
  have hmul : mul2 b ^^^ mul3 b = b := by rw [mul2, mul3, ← BitVec.xor_assoc, BitVec.xor_self, BitVec.zero_xor]
  refine Vector.ext fun k hk => ?_
  interval_cases k <;> simp [mixColumn, mul1, hmul, BitVec.xor_assoc, BitVec.xor_comm]

theorem columnSum_xorBlock (a b : Block) {c : Nat} (hc : c < 4) :
    Block.columnSum (xorBlock a b) c = Block.columnSum a c ^^^ Block.columnSum b c := by
  have hbyte {k : Nat} (hk : k < 4) := xorBlock_at a b hk hc
  rw [Block.columnSum, hbyte (by omega), hbyte (by omega), hbyte (by omega), hbyte (by omega), Block.columnSum, Block.columnSum]
  ac_rfl

/-- MixColumns is linear: in its second form it is made of sums and the doubling of a sum. -/
theorem mixColumns_xorBlock (a b : Block) : mixColumns (xorBlock a b) = xorBlock (mixColumns a) (mixColumns b) := by
  refine block_ext_at fun k c hk hc => ?_
  have hnext : (k + 1) % 4 < 4 := Nat.mod_lt _ (by omega)
  rw [xorBlock_at _ _ hk hc, mixColumns_at _ hk hc, mixColumns_at _ hk hc, mixColumns_at _ hk hc, columnSum_xorBlock a b hc,
    xorBlock_at a b hk hc, xorBlock_at a b hnext hc]
  simp only [xtime_xor]
  ac_rfl

/-- The products of the inverse matrix as sums of doublings (R72). -/
theorem gmul_nine (b : Byte) : gmul b 0x09 = b ^^^ xtime (xtime (xtime b)) := by simp [gmul, List.range_succ, xtimes]

theorem gmul_eleven (b : Byte) : gmul b 0x0b = b ^^^ xtime b ^^^ xtime (xtime (xtime b)) := by
  simp [gmul, List.range_succ, xtimes]

theorem gmul_thirteen (b : Byte) : gmul b 0x0d = b ^^^ xtime (xtime b) ^^^ xtime (xtime (xtime b)) := by
  simp [gmul, List.range_succ, xtimes]

theorem gmul_fourteen (b : Byte) : gmul b 0x0e = xtime b ^^^ xtime (xtime b) ^^^ xtime (xtime (xtime b)) := by
  simp [gmul, List.range_succ, xtimes]

/-- Every row of the inverse matrix is the first one rotated (R72). -/
theorem invMixColumns_at_row (s : Block) {k c : Nat} (hk : k < 4) (hc : c < 4) :
    Block.at (invMixColumns s) k c =
      gmul (Block.at s k c) 0x0e ^^^ gmul (Block.at s ((k + 1) % 4) c) 0x0b ^^^ gmul (Block.at s ((k + 2) % 4) c) 0x0d ^^^
        gmul (Block.at s ((k + 3) % 4) c) 0x09 := by
  rw [invMixColumns, mapColumns_at _ s hk hc]
  interval_cases k <;> simp [invMixColumn, BitVec.xor_assoc, BitVec.xor_comm, byte_xor_left_comm]

/-- The inverse matrix is MixColumns and two terms more: the byte with the one opposite it, doubled twice, and the sum of the column,
doubled three times. -/
theorem invMixColumns_at (s : Block) {k c : Nat} (hk : k < 4) (hc : c < 4) :
    Block.at (invMixColumns s) k c =
      Block.at (mixColumns s) k c ^^^ xtime (xtime (Block.at s k c ^^^ Block.at s ((k + 2) % 4) c)) ^^^
        xtime (xtime (xtime (Block.columnSum s c))) := by
  rw [invMixColumns_at_row s hk hc, mixColumns_at_row s hk hc, columnSum_from s hk, mul2, mul3]
  simp only [gmul_nine, gmul_eleven, gmul_thirteen, gmul_fourteen, xtime_xor]
  ac_rfl

/-- The sum of two neighbours after MixColumns. -/
theorem mixColumns_at_xor_next (s : Block) {k c : Nat} (hk : k < 4) (hc : c < 4) :
    Block.at (mixColumns s) k c ^^^ Block.at (mixColumns s) ((k + 1) % 4) c =
      Block.at s k c ^^^ Block.at s ((k + 1) % 4) c ^^^ xtime (Block.at s k c ^^^ Block.at s ((k + 2) % 4) c) := by
  have hopposite : ((k + 1) % 4 + 1) % 4 = (k + 2) % 4 := by omega
  have hmiddle (x y z : Byte) : (x ^^^ y) ^^^ (y ^^^ z) = x ^^^ z := by simp [BitVec.xor_assoc]
  rw [mixColumns_at s hk hc, mixColumns_at s (Nat.mod_lt _ (by omega)) hc, hopposite, byte_xor_shared, ← xtime_xor, hmiddle]

/-- The sum of two opposite bytes after MixColumns. -/
theorem mixColumns_at_xor_opposite (s : Block) {k c : Nat} (hk : k < 4) (hc : c < 4) :
    Block.at (mixColumns s) k c ^^^ Block.at (mixColumns s) ((k + 2) % 4) c =
      Block.at s k c ^^^ Block.at s ((k + 2) % 4) c ^^^ xtime (Block.columnSum s c) := by
  have hlast : ((k + 2) % 4 + 1) % 4 = (k + 3) % 4 := by omega
  rw [mixColumns_at s hk hc, mixColumns_at s (Nat.mod_lt _ (by omega)) hc, hlast, byte_xor_shared, ← xtime_xor,
    columnSum_from s hk, BitVec.xor_assoc (_ ^^^ _)]

/-- MixColumns keeps the sum of a column: the two pairs of opposite bytes gain the same term. -/
theorem columnSum_mixColumns (s : Block) {c : Nat} (hc : c < 4) :
    Block.columnSum (mixColumns s) c = Block.columnSum s c := by
  have hpairs (u : Block) : Block.columnSum u c =
      (Block.at u 0 c ^^^ Block.at u 2 c) ^^^ (Block.at u 1 c ^^^ Block.at u 3 c) := by
    rw [Block.columnSum]
    ac_rfl
  have heven := mixColumns_at_xor_opposite s (k := 0) (by omega) hc
  have hodd := mixColumns_at_xor_opposite s (k := 1) (by omega) hc
  rw [hpairs, heven, hodd, hpairs]
  simp [BitVec.xor_assoc, byte_xor_left_comm]

/-- MixColumns twice: the byte and, doubled twice, its sum with the one opposite it. -/
theorem mixColumns_mixColumns_at (s : Block) {k c : Nat} (hk : k < 4) (hc : c < 4) :
    Block.at (mixColumns (mixColumns s)) k c =
      Block.at s k c ^^^ xtime (xtime (Block.at s k c ^^^ Block.at s ((k + 2) % 4) c)) := by
  rw [mixColumns_at _ hk hc, mixColumns_at_xor_next s hk hc, columnSum_mixColumns s hc, mixColumns_at s hk hc,
    xtime_xor (_ ^^^ _) (xtime _)]
  simp [BitVec.xor_assoc]

/-- Every term the inverse matrix has beyond the byte itself occurs twice. -/
theorem invMixColumns_mixColumns (s : Block) : invMixColumns (mixColumns s) = s := by
  refine block_ext_at fun k c hk hc => ?_
  rw [invMixColumns_at _ hk hc, mixColumns_mixColumns_at s hk hc, mixColumns_at_xor_opposite s hk hc, columnSum_mixColumns s hc,
    xtime_xor (_ ^^^ _) (xtime _), xtime_xor (xtime _)]
  simp only [BitVec.xor_assoc, BitVec.xor_self, BitVec.xor_zero]

/-- There are finitely many states: a state is a function of the index. -/
theorem finite_block : Finite Block :=
  Finite.of_injective (fun (s : Block) (n : Fin 16) => s[n]) fun _ _ h => block_ext fun n hn => congrFun h ⟨n, hn⟩

/-- The inverse matrix makes MixColumns injective, and the states are finitely many. -/
theorem mixColumns_bijective : Function.Bijective mixColumns :=
  have := finite_block
  (Function.LeftInverse.injective invMixColumns_mixColumns).bijective_of_finite

end Sys2Proof

namespace Sys2Proof.Machine

/-- Settles O33: the matrix is the definition read column by column; the second form gives linearity; the listed columns are
evaluations. -/
theorem mixcolumnsMultipliesEachColumn : Obligations.MixcolumnsMultipliesEachColumn := by
  refine ⟨fun _ _ => rfl, ?matrix, fun st _ _ hc hk => mixColumns_at st hk hc, mixColumn_of_equal, rfl, rfl, rfl,
    mixColumns_xorBlock⟩
  case matrix =>
    intro st c hc
    interval_cases c <;> exact ⟨rfl, rfl, rfl, rfl⟩

/-- Settles O34: the product of the two matrices is the identity in every column. -/
theorem inverseMatrixUndoesMixcolumns : Obligations.InverseMatrixUndoesMixcolumns := invMixColumns_mixColumns

/-- Settles O35: an inverse of each primitive; for MixColumns the inverse matrix. -/
theorem roundPrimitivesAreBijections : Obligations.RoundPrimitivesAreBijections :=
  ⟨subBytes_bijective, shiftRows_bijective, mixColumns_bijective, addRoundKey_bijective⟩

end Sys2Proof.Machine
end

section
/-! PROOF. The function rows change no register (R91). -/

namespace Sys2Proof.Machine

/-- Settles O43: of what an instruction can do, a function row only gives a value back. -/
theorem functionsChangeNoRegister : Obligations.FunctionsChangeNoRegister := by
  intro i s t h hrow
  have hcases := exec_next_cases h
  obtain ⟨_, rfl⟩ | ⟨_, rfl⟩ | ⟨_, rfl⟩ | ⟨_, rfl⟩ | ⟨_, rfl⟩ | ⟨_, _, _, rfl⟩ | ⟨_, rfl⟩ | ⟨_, _, _, rfl⟩ | ⟨_, rfl⟩ |
    ⟨_, rfl⟩ | ⟨_, rfl⟩ | ⟨_, rfl⟩ | ⟨_, rfl⟩ | ⟨_, rfl⟩ | ⟨_, _, rfl⟩ := hrow
  all_goals
    have hresult : ∃ r, t = s.setResult r := by simpa [execSeq] using hcases
    obtain ⟨r, rfl⟩ := hresult
    rfl

end Sys2Proof.Machine
end

section
/-! SUPPORT and PROOF. The marshaller byte by byte: which byte each of its functions puts where (R95 to R97), that packing and
unpacking undo each other (R98), and the host's view of a packed value as four words (R100, R101). -/

namespace Sys2Proof

theorem swapIndex_lt (i : Nat) : swapIndex i < 16 := by
  rw [swapIndex]
  omega

/-- The permutation of the bytes is its own inverse (R98). -/
theorem swapIndex_swapIndex {i : Nat} (h : i < 16) : swapIndex (swapIndex i) = i := by
  simp only [swapIndex]
  omega

/-- Two packed values with the same bytes are the same: bit `j` lies in byte `15 - j / 8`. -/
theorem packed_ext {v w : Packed} (h : ∀ i, i < 16 → ext v i = ext w i) : v = w := by
  refine BitVec.eq_of_getLsbD_eq fun j hj => ?_
  have hbyte := congrArg (BitVec.getLsbD · (j % 8)) (h (15 - j / 8) (by omega))
  have hbit : 8 * (15 - (15 - j / 8)) + j % 8 = j := by omega
  simpa [ext, BitVec.getLsbD_extractLsb', hbit, Nat.mod_lt j] using hbyte

/-- Packed byte `i` of `Pack(S)` (R96). -/
theorem ext_pack (s : Block) {i : Nat} (h : i < 16) : ext (pack s) i = s[swapIndex i]'(swapIndex_lt i) := by
  rw [pack, ext_ofBytes _ h, block_getD s (swapIndex_lt i)]

theorem unpack_pack (s : Block) : unpack (pack s) = s :=
  block_ext fun n hn => by simp only [unpack_get _ hn, ext_pack s (swapIndex_lt n), swapIndex_swapIndex hn]

theorem pack_unpack (v : Packed) : pack (unpack v) = v :=
  packed_ext fun i hi => by rw [ext_pack _ hi, unpack_get v (swapIndex_lt i), swapIndex_swapIndex hi]

/-- The key rule and the block rule are the same function, written twice (R99). -/
theorem unpack_eq_unpackKey (v : Packed) : unpack v = unpackKey v :=
  block_ext fun n hn => by rw [unpack_get v hn, unpackKey_get v hn, swapIndex]

/-- Bits inside one of four concatenated words of equal width, the words counted from the least significant. -/
theorem extractLsb'_append_four {m : Nat} (x0 x1 x2 x3 : BitVec m) {k start len : Nat} (hk : k < 4) (hin : start + len ≤ m) :
    (x3 ++ x2 ++ x1 ++ x0).extractLsb' (m * k + start) len = (#v[x0, x1, x2, x3][k]).extractLsb' start len := by
  have hskip {w : Nat} (hi : BitVec w) (lo : BitVec m) (k : Nat) :
      (hi ++ lo).extractLsb' (m * (k + 1) + start) len = hi.extractLsb' (m * k + start) len := by
    rw [BitVec.extractLsb'_append_eq_of_le (by rw [Nat.mul_succ]; omega)]
    congr 1
    rw [Nat.mul_succ]
    omega
  have htake {w : Nat} (hi : BitVec w) (lo : BitVec m) :
      (hi ++ lo).extractLsb' (m * 0 + start) len = lo.extractLsb' start len := by
    rw [Nat.mul_zero, Nat.zero_add, BitVec.extractLsb'_append_eq_of_add_le hin]
  match k, hk with
  | 0, _ => exact htake ..
  | 1, _ => rw [hskip, htake]; rfl
  | 2, _ => rw [hskip, hskip, htake]; rfl
  | 3, _ => rw [hskip, hskip, hskip, Nat.mul_zero, Nat.zero_add]; rfl

/-- Byte `j` of a 32-bit word, the most significant first: the bytes of a word keep their order (R101). -/
def wordByte (w : BitVec 32) (j : Nat) : Byte := w.extractLsb' (8 * (3 - j)) 8

theorem wordByte_blockWord (b : Block) {k j : Nat} (hk : k < 4) (hj : j < 4) :
    wordByte (blockWord b k) j = b[4 * k + j] := by
  rw [wordByte, blockWord, ← Nat.add_zero (8 * (3 - j)), extractLsb'_append_four _ _ _ _ (by omega) (by omega),
    BitVec.extractLsb'_eq_self, ← block_getD b (by omega)]
  interval_cases j <;> rfl

/-- Word `k` of the host's view is column `k` of the block (R101). -/
theorem unpack_toWireWords (u0 u1 u2 u3 : BitVec 32) {k j : Nat} (hk : k < 4) (hj : j < 4) :
    (unpack (toWireWords u0 u1 u2 u3))[4 * k + j] = wordByte (#v[u0, u1, u2, u3][k]) j := by
  have hbits : 8 * (15 - swapIndex (4 * k + j)) = 32 * k + 8 * (3 - j) := by rw [swapIndex]; omega
  rw [unpack_get _ (by omega), ext, hbits, toWireWords, extractLsb'_append_four _ _ _ _ hk (by omega), wordByte]

/-- The host's word view of a block is its wire value: both unpack to the block (R101). -/
theorem toWire_eq_toWireWords (b : Block) :
    toWire b = toWireWords (blockWord b 0) (blockWord b 1) (blockWord b 2) (blockWord b 3) := by
  have hunpack : unpack (toWireWords (blockWord b 0) (blockWord b 1) (blockWord b 2) (blockWord b 3)) = b := by
    refine block_ext_at fun j k hj hk => ?_
    have hword : #v[blockWord b 0, blockWord b 1, blockWord b 2, blockWord b 3][k] = blockWord b k := by
      interval_cases k <;> rfl
    rw [block_at _ (by omega), block_at b (by omega), unpack_toWireWords _ _ _ _ hk hj, hword, wordByte_blockWord b hk hj]
  exact (congrArg pack hunpack.symm).trans (pack_unpack _)

/-- A packed value of four equal words unpacks to four equal columns (R95). -/
theorem unpack_equal_words_at (w : BitVec 32) {r c : Nat} (hr : r < 4) (hc : c < 4) :
    Block.at (unpack (w ++ w ++ w ++ w)) r c = wordByte w r := by
  have hword : #v[w, w, w, w][c] = w := by interval_cases c <;> rfl
  have hbyte := unpack_toWireWords w w w w hc hr
  rw [hword, toWireWords] at hbyte
  rw [block_at _ (by omega), hbyte]

end Sys2Proof

namespace Sys2Proof.Machine

/-- Settles O36: packed byte `i` is read at `swapIndex (swapIndex i)`; the listed values are evaluations. -/
theorem unpackReversesTheWordOrder : Obligations.UnpackReversesTheWordOrder := by
  refine ⟨fun _ _ => rfl, ?bytes, ?equalWords, rfl, rfl, rfl⟩
  case bytes =>
    intro v i hi
    exact (unpack_get v (swapIndex_lt i)).trans (congrArg (ext v) (swapIndex_swapIndex hi))
  case equalWords =>
    intro w r c hr hc
    rw [unpack_equal_words_at w hr hc, unpack_equal_words_at w hr (by omega)]

/-- Settles O37: counted from the least significant end, the position of byte `n` is `15 - swapIndex n`; the listed values are
evaluations. -/
theorem packPlacesEveryByte : Obligations.PackPlacesEveryByte := by
  refine ⟨fun _ _ => rfl, ?position, fun st _ => ext_pack st, rfl, rfl, rfl⟩
  case position =>
    intro st n hn
    have hpos : 4 * (n / 4) + 3 - n % 4 = 15 - swapIndex n := by rw [swapIndex]; omega
    have hbyte := ext_pack st (swapIndex_lt n)
    simpa only [swapIndex_swapIndex hn, ext, ← hpos] using hbyte

/-- Settles O38: in `4 * (3 - w) + b` the word is `3 - w` and the byte `b`; the listed values are evaluations. -/
theorem unpackkeyReversesTheWordOrder : Obligations.UnpackkeyReversesTheWordOrder := by
  refine ⟨fun _ _ => rfl, ?bytes, rfl, rfl, rfl⟩
  case bytes =>
    intro v w b hw hb
    have hindex : 4 * (3 - (4 * (3 - w) + b) / 4) + (4 * (3 - w) + b) % 4 = 4 * w + b := by omega
    rw [unpackKey_get v (by omega), hindex, ext]

/-- Settles O39: both round trips apply the permutation of the bytes twice. -/
theorem packAndUnpackAreInverse : Obligations.PackAndUnpackAreInverse :=
  ⟨pack_unpack, unpack_pack, fun _ => swapIndex_swapIndex⟩

/-- Settles O40: the two unpacking rules are one function, which undoes the wire value. -/
theorem keyAndBlockMarshalAlike : Obligations.KeyAndBlockMarshalAlike :=
  ⟨unpack_eq_unpackKey, toWire_eq_toWireWords,
    fun b => ⟨unpack_pack b, (unpack_eq_unpackKey _).symm.trans (unpack_pack b), unpack_pack b⟩⟩

end Sys2Proof.Machine
end

section
/-! SUPPORT and PROOF. What each sequencer step answers in the state that selects it, when `RK` holds the bytes it reads (R107 to
R111). -/

namespace Sys2Proof.Machine

/-- The step reads the round key of the schedule whose bytes stand in its group of `RK` (R79). -/
theorem withRoundKey_roundKey {s : State} {g : Nat} {f : Block → State} {r : Schedule} (hg : g ≤ 10)
    (hrk : ∀ a, 16 * g ≤ a → a < 16 * g + 16 → Memory.read s.RK a = some (Schedule.byteAt r a)) :
    withRoundKey s g f = .next (f (roundKey r g)) :=
  withRoundKey_ok hg fun n hn => by rw [roundKey_get r g hn, hrk _ (by omega) (by omega)]

/-- `RND.INIT` (R107). -/
theorem exec_rndInit {s : State} {r : Schedule} (hphase : s.phase = .initial)
    (hrk : ∀ a, a < 16 → Memory.read s.RK a = some (Schedule.byteAt r a)) :
    exec .rndInit s = .next (s.enterRound (addRoundKey 0 s.S r) 0) := by
  rw [exec, execRndInit, if_pos ((selected_rndInit s).2 hphase), withRoundKey_roundKey (by omega) fun a _ ha => hrk a ha,
    addRoundKey]

/-- `RND.FULL` (R108). -/
theorem exec_rndFull {s : State} {r : Schedule} (hphase : s.phase = .round) (hround : s.round.toNat ≤ 8)
    (hrk : ∀ a, 16 * (s.round.toNat + 1) ≤ a → a < 16 * (s.round.toNat + 1) + 16 →
      Memory.read s.RK a = some (Schedule.byteAt r a)) :
    exec .rndFull s = .next (s.enterRound (fullRound (s.round.toNat + 1) s.S r) (s.round + 1)) := by
  rw [exec, execRndFull, if_pos ((selected_rndFull s).2 ⟨hphase, hround⟩), withRoundKey_roundKey (by omega) hrk, fullRound]

/-- `RND.FINAL` (R109). -/
theorem exec_rndFinal {s : State} {r : Schedule} (hphase : s.phase = .round) (hround : s.round.toNat = 9)
    (hrk : ∀ a, 160 ≤ a → a < 176 → Memory.read s.RK a = some (Schedule.byteAt r a)) :
    exec .rndFinal s = .next (s.enterRound (finalRound s.S r) 10) := by
  rw [exec, execRndFinal, if_pos ((selected_rndFinal s).2 ⟨hphase, hround⟩), withRoundKey_roundKey (by omega) hrk, finalRound]

/-- `RND.DONE` (R110). -/
theorem exec_rndDone {s : State} (hphase : s.phase = .round) (hround : s.round.toNat = 10) :
    exec .rndDone s = .next (s.finishBlock (pack s.S)) := by
  rw [exec, execRndDone, if_pos ((selected_rndDone s).2 ⟨hphase, hround⟩)]

/-- `KX.STEP` writes the word of its index and moves on, or ends the expansion (R111). -/
theorem exec_kxStep {s : State} {p q : Word} (hphase : s.phase = .keyexp) (h4 : 4 ≤ s.widx.toNat) (h43 : s.widx.toNat ≤ 43)
    (hp : ∀ (j : Nat) (hj : j < 4), Memory.read s.RK (4 * (s.widx.toNat - 1) + j) = some p[j])
    (hq : ∀ (j : Nat) (hj : j < 4), Memory.read s.RK (4 * (s.widx.toNat - 4) + j) = some q[j]) :
    ∃ rk, memWrite s (4 * s.widx.toNat) 4 (kexpWord s.widx.toNat p q) = .ok rk ∧
      exec .kxStep s = if s.widx.toNat < 43 then .next (s.nextWord rk) else .next (s.finishExpansion rk) := by
  have hin {i : Nat} (hi : i ≤ 43) : 4 * i + 4 ≤ Config.NRKBYTES := by
    have : Config.NRKBYTES = 176 := rfl
    omega
  have hwrite := memWrite_ok (s := s) (v := kexpWord s.widx.toNat p q) (hin h43)
  refine ⟨_, hwrite, ?_⟩
  simp only [exec, execKxStep, if_pos ((selected_kxStep s).2 ⟨hphase, h4, h43⟩), memRead_rk_ok (hin (by omega)) hp,
    memRead_rk_ok (hin (by omega)) hq, hwrite]

/-- In `ROUND` the writes of a step that adds a round key leave the phase as it is. -/
theorem State.enterRound_of_round {s : State} (hphase : s.phase = .round) (b : Block) (r : BitVec 4) :
    s.enterRound b r = { s with S := b, round := r } := by
  rw [State.enterRound, ← hphase]

theorem add_one_eq_ofNat {w : Nat} (x : BitVec w) : x + 1 = BitVec.ofNat w (x.toNat + 1) := by
  simp [BitVec.ofNat_add]

theorem toNat_add_one_of_lt {w : Nat} {x : BitVec w} (h : x.toNat + 1 < 2 ^ w) : (x + 1).toNat = x.toNat + 1 := by
  rw [add_one_eq_ofNat, BitVec.toNat_ofNat, Nat.mod_eq_of_lt h]

/-- Settles O15: the round key read is that of group 0; adding zeros changes nothing. -/
theorem rndInitAddsRoundKeyZero : Obligations.RndInitAddsRoundKeyZero := by
  intro s r hphase hrk
  exact ⟨exec_rndInit hphase hrk, fun hzero => addRoundKey_of_zero s.S fun n hn => hzero _ (by omega)⟩

/-- Settles O16: the round key read is that of group `round + 1`. -/
theorem rndFullCompletesTheNextRound : Obligations.RndFullCompletesTheNextRound := by
  rintro s r _ hphase rfl hround hrk
  rw [exec_rndFull hphase hround hrk, State.enterRound_of_round hphase, add_one_eq_ofNat, fullRound, fullRoundWith, addRoundKey]

/-- Settles O17: the round key read is that of group 10. -/
theorem rndFinalOmitsMixColumns : Obligations.RndFinalOmitsMixColumns := by
  intro s r hphase hround hrk
  rw [exec_rndFinal hphase hround hrk, State.enterRound_of_round hphase, finalRound, finalRoundWith, addRoundKey]

/-- Settles O18: in round 10 the registers select the finishing step, whose writes are those of the rule. -/
theorem rndDonePacksTheBlock : Obligations.RndDonePacksTheBlock := fun _ hphase hround => exec_rndDone hphase hround

/-- Settles O19: the word that is written and the rest of `RK` by the rule of `MemWrite`; the frame by the two kinds of step. -/
theorem kxStepWritesOneWord : Obligations.KxStepWritesOneWord := by
  rintro s _ p q hphase rfl h4 h43 hp hq
  obtain ⟨rk, hwrite, hexec⟩ := exec_kxStep hphase h4 h43 hp hq
  obtain ⟨hword, hrest, -⟩ := memWrite_spec hwrite
  by_cases hlast : s.widx.toNat < 43
  · refine ⟨s.nextWord rk, hexec.trans (if_pos hlast), hword, hrest, fun _ => ?_, by omega⟩
    rw [State.nextWord, add_one_eq_ofNat]
  · exact ⟨s.finishExpansion rk, hexec.trans (if_neg hlast), hword, hrest, by omega, fun _ => rfl⟩

end Sys2Proof.Machine
end

section
/-! SUPPORT and PROOF. The cipher as a fold over its rounds, and each of its parts as a bijection (R106). -/

namespace Sys2Proof

theorem fullRound_bijective (k : Nat) (r : Schedule) : Function.Bijective fun s => fullRound k s r :=
  (addRoundKey_bijective k r).comp (mixColumns_bijective.comp (shiftRows_bijective.comp subBytes_bijective))

theorem finalRound_bijective (r : Schedule) : Function.Bijective fun s => finalRound s r :=
  (addRoundKey_bijective 10 r).comp (shiftRows_bijective.comp subBytes_bijective)

theorem roundsTo_bijective (r : Schedule) (n : Nat) : Function.Bijective fun s => roundsTo s r n := by
  induction n with
  | zero => exact addRoundKey_bijective 0 r
  | succ n ih => exact (fullRound_bijective (n + 1) r).comp ih

theorem cipher_bijective (r : Schedule) : Function.Bijective fun s => cipher s r :=
  (finalRound_bijective r).comp (roundsTo_bijective r 9)

/-- The full rounds run in ascending order from round 1. -/
theorem roundsTo_eq_foldl (s : Block) (r : Schedule) (n : Nat) :
    roundsTo s r n = (List.range' 1 n).foldl (fun x k => fullRound k x r) (addRoundKey 0 s r) := by
  induction n with
  | zero => rfl
  | succ n ih =>
    rw [roundsTo, ih, List.range'_concat, List.foldl_append, Nat.one_mul, Nat.add_comm 1 n, List.foldl_cons, List.foldl_nil]

end Sys2Proof

namespace Sys2Proof.Machine

/-- Settles O41: the loop of the full rounds is a fold, and the cipher is composed of bijections. -/
theorem cipherAppliesTenRoundsAndIsABijection : Obligations.CipherAppliesTenRoundsAndIsABijection := by
  refine ⟨fun _ _ _ => rfl, fun st r => ?rounds, cipher_bijective⟩
  case rounds =>
    rw [cipher, roundsTo_eq_foldl]
    rfl

end Sys2Proof.Machine
end

section
/-! SUPPORT and PROOF. The turns of a busy core that is left alone: from a state that keeps the invariant each is taken, keeps the
invariant, and leaves one step less (R25, R113). -/

namespace Sys2Proof.Machine

/-- The core steps a state still has before it is ready, by the table of R56: a word each in `KEYEXP`, a round key each in
`INITIAL` and `ROUND`, and the finishing step. -/
def State.stepsLeft (s : State) : Nat :=
  match s.phase with
  | .idle => 0
  | .keyexp => 44 - s.widx.toNat
  | .initial => 12
  | .round => 11 - s.round.toNat
  | .done => 0

theorem State.stepsLeft_of_ready {s : State} (h : s.busy = false) : s.stepsLeft = 0 := by
  obtain h | h := s.busy_eq_false_iff.1 h <;> simp [State.stepsLeft, h]

theorem State.stepsLeft_keyexp {s : State} (h : s.phase = .keyexp) : s.stepsLeft = 44 - s.widx.toNat := by
  simp [State.stepsLeft, h]

theorem State.stepsLeft_initial {s : State} (h : s.phase = .initial) : s.stepsLeft = 12 := by simp [State.stepsLeft, h]

theorem State.stepsLeft_round {s : State} (h : s.phase = .round) : s.stepsLeft = 11 - s.round.toNat := by
  simp [State.stepsLeft, h]

/-- The longest wait is that of a key just loaded (R113). -/
theorem State.Inv.stepsLeft_le {s : State} (h : s.Inv) : s.stepsLeft ≤ 40 := by
  cases hphase : s.phase with
  | idle | done => simp [State.stepsLeft, hphase]
  | initial => simp [State.stepsLeft_initial hphase]
  | round => rw [State.stepsLeft_round hphase]; omega
  | keyexp =>
    obtain ⟨h4, -⟩ := h.widx_range hphase
    rw [State.stepsLeft_keyexp hphase]
    omega

/-! ### The invariant after each step's writes -/

/-- Entering a round keeps the invariant: nothing but `S`, `round` and `phase` changes, and `round` stays in its range. -/
theorem State.Inv.enterRound {s : State} (h : s.Inv) (hphase : s.phase = .initial ∨ s.phase = .round) (b : Block)
    {r : BitVec 4} (hr : r.toNat ≤ 10) : (s.enterRound b r).Inv where
  memory := h.memory
  round_le _ := hr
  widx_range := by simp
  keyexp_invalid := by simp
  block_valid _ := h.block_valid (hphase.imp_right .inl)
  dout_valid_iff := by
    have hnot : s.phase ≠ .done := by
      intro hdone
      simp [hdone] at hphase
    simpa [hnot] using h.dout_valid_iff
  keyexp_prefix := by simp
  schedule := h.schedule

/-- The finishing step keeps the invariant: `dout_valid` and `DONE` come together. -/
theorem State.Inv.finishBlock {s : State} (h : s.Inv) (hphase : s.phase = .round) (v : Packed) : (s.finishBlock v).Inv where
  memory := h.memory
  round_le := by simp
  widx_range := by simp
  keyexp_invalid := by simp
  block_valid _ := h.block_valid (.inr (.inl hphase))
  dout_valid_iff := by simp
  keyexp_prefix := by simp
  schedule := h.schedule

/-- Writing word `i` of the expansion after the words before it: `RK` holds the words up to `i` (R78, R111). -/
theorem rkHolds_memWrite_word {s : State} {k : Block} {i : Nat} {rk : Memory} (h4 : 4 ≤ i) (h43 : i ≤ 43)
    (hbefore : RkHolds s.RK (expandKey k) (4 * i))
    (hwrite : memWrite s (4 * i) 4
      (kexpWord i (Schedule.wordAt (expandKey k) (i - 1)) (Schedule.wordAt (expandKey k) (i - 4))) = .ok rk) :
    RkHolds rk (expandKey k) (4 * (i + 1)) := by
  obtain ⟨n, rfl⟩ := Nat.exists_eq_add_of_le' h4
  obtain ⟨hword, hrest, -⟩ := memWrite_spec hwrite
  intro a ha
  by_cases hnew : 4 * (n + 4) ≤ a
  · obtain ⟨j, rfl⟩ := Nat.exists_eq_add_of_le hnew
    have hj : j < 4 := by omega
    rw [hword j hj, ← Schedule.wordAt_get _ _ hj]
    exact congrArg (fun w : Word => some w[j]) (wordAt_expandKey_add_four k (by omega)).symm
  · rw [hrest a (by omega), hbefore a (by omega)]

/-- A key-expansion step before the last keeps the invariant when the word it wrote is the expansion's. -/
theorem State.Inv.nextWord {s : State} (h : s.Inv) (hphase : s.phase = .keyexp) (hlt : s.widx.toNat < 43) {k : Block}
    {rk : Memory} (hwf : Memory.wf rk = true) (hrk : RkHolds rk (expandKey k) (4 * (s.widx.toNat + 1))) :
    (s.nextWord rk).Inv where
  memory := hwf
  round_le := by simp [hphase]
  widx_range _ := by
    obtain ⟨h4, -⟩ := h.widx_range hphase
    rw [State.nextWord_widx, toNat_add_one_of_lt (by omega)]
    omega
  keyexp_invalid _ := h.keyexp_invalid hphase
  block_valid := by simp [hphase]
  dout_valid_iff := h.dout_valid_iff
  keyexp_prefix _ := ⟨k, by rwa [State.nextWord_widx, toNat_add_one_of_lt (by omega)]⟩
  schedule := by simp [h.keyexp_invalid hphase]

/-- The last key-expansion step keeps the invariant when it completed the schedule. -/
theorem State.Inv.finishExpansion {s : State} (h : s.Inv) (hphase : s.phase = .keyexp) {k : Block} {rk : Memory}
    (hwf : Memory.wf rk = true) (hrk : RkHolds rk (expandKey k) Config.NRKBYTES) : (s.finishExpansion rk).Inv where
  memory := hwf
  round_le := by simp
  widx_range := by simp
  keyexp_invalid := by simp
  block_valid := by simp
  dout_valid_iff := by simpa [hphase] using h.dout_valid_iff
  keyexp_prefix := by simp
  schedule _ := ⟨k, hrk⟩

/-! ### The core's turn -/

/-- What a turn of a busy core leaves: a state that keeps the invariant, the host's turns untouched, one core step less. -/
structure OneStepCloser (s t : State) : Prop where
  inv : t.Inv
  host : t.host = s.host
  stepsLeft : t.stepsLeft + 1 = s.stepsLeft

theorem coreTurn_of_selected {s : State} {i : Instr} (h : s.selected = some i) : coreTurn exec s = exec i s := by
  rw [coreTurn, h]

/-- In `KEYEXP` the core computes a word (R111). -/
theorem coreTurn_keyexp {s : State} (h : s.Inv) (hphase : s.phase = .keyexp) :
    ∃ t, coreTurn exec s = .next t ∧ OneStepCloser s t := by
  obtain ⟨h4, h43⟩ := h.widx_range hphase
  obtain ⟨k, hbefore⟩ := h.keyexp_prefix hphase
  have hread {i : Nat} (hi : i < s.widx.toNat) (j : Nat) (hj : j < 4) :
      Memory.read s.RK (4 * i + j) = some (Schedule.wordAt (expandKey k) i)[j] := by
    rw [hbefore _ (by omega), Schedule.wordAt_get _ _ hj]
  obtain ⟨rk, hwrite, hexec⟩ := exec_kxStep hphase h4 h43 (hread (by omega)) (hread (by omega))
  have hwf := (memWrite_spec hwrite).2.2 h.memory
  have hrk := rkHolds_memWrite_word h4 h43 hbefore hwrite
  rw [coreTurn_of_selected ((selected_kxStep s).2 ⟨hphase, h4, h43⟩), hexec]
  by_cases hlast : s.widx.toNat < 43
  · refine ⟨_, if_pos hlast, h.nextWord hphase hlast hwf hrk, State.nextWord_host .., ?_⟩
    have hwidx : (s.widx + 1).toNat = s.widx.toNat + 1 := toNat_add_one_of_lt (by omega)
    rw [State.stepsLeft_keyexp hphase, State.stepsLeft_keyexp (s := s.nextWord rk) hphase, State.nextWord_widx, hwidx]
    omega
  · have h43 : s.widx.toNat = 43 := by omega
    rw [h43] at hrk
    refine ⟨_, if_neg hlast, h.finishExpansion hphase hwf hrk, State.finishExpansion_host .., ?_⟩
    rw [State.stepsLeft_keyexp hphase, h43, State.stepsLeft_of_ready rfl]

/-- In `INITIAL` the core adds round key 0 (R107). -/
theorem coreTurn_initial {s : State} (h : s.Inv) (hphase : s.phase = .initial) :
    ∃ t, coreTurn exec s = .next t ∧ OneStepCloser s t := by
  obtain ⟨k, hk⟩ := h.schedule (h.block_valid (.inl hphase))
  have hexec := exec_rndInit hphase fun a ha => hk a (by rw [Config.NRKBYTES]; omega)
  rw [coreTurn_of_selected ((selected_rndInit s).2 hphase), hexec]
  refine ⟨_, rfl, h.enterRound (.inl hphase) _ (by decide), State.enterRound_host .., ?_⟩
  rw [State.stepsLeft_initial hphase, State.stepsLeft_round (State.enterRound_phase ..), State.enterRound_round]
  rfl

/-- In `ROUND` the core completes the next round, or leaves the block (R108 to R110). -/
theorem coreTurn_round {s : State} (h : s.Inv) (hphase : s.phase = .round) :
    ∃ t, coreTurn exec s = .next t ∧ OneStepCloser s t := by
  obtain ⟨k, hk⟩ := h.schedule (h.block_valid (.inr (.inl hphase)))
  have hround : s.round.toNat ≤ 8 ∨ s.round.toNat = 9 ∨ s.round.toNat = 10 := by
    have := h.round_le hphase
    omega
  obtain hfull | hfinal | hdone := hround
  · have hexec := exec_rndFull hphase hfull fun a _ ha => hk a (by rw [Config.NRKBYTES]; omega)
    have hnext : (s.round + 1).toNat = s.round.toNat + 1 := toNat_add_one_of_lt (by omega)
    rw [coreTurn_of_selected ((selected_rndFull s).2 ⟨hphase, hfull⟩), hexec]
    refine ⟨_, rfl, h.enterRound (.inr hphase) _ (by omega), State.enterRound_host .., ?_⟩
    rw [State.stepsLeft_round hphase, State.stepsLeft_round (State.enterRound_phase ..), State.enterRound_round, hnext]
    omega
  · have hexec := exec_rndFinal hphase hfinal fun a _ ha => hk a ha
    rw [coreTurn_of_selected ((selected_rndFinal s).2 ⟨hphase, hfinal⟩), hexec]
    refine ⟨_, rfl, h.enterRound (.inr hphase) _ (by decide), State.enterRound_host .., ?_⟩
    rw [State.stepsLeft_round hphase, hfinal, State.stepsLeft_round (State.enterRound_phase ..), State.enterRound_round]
    rfl
  · rw [coreTurn_of_selected ((selected_rndDone s).2 ⟨hphase, hdone⟩), exec_rndDone hphase hdone]
    refine ⟨_, rfl, h.finishBlock hphase _, State.finishBlock_host .., ?_⟩
    rw [State.stepsLeft_round hphase, hdone, State.stepsLeft_of_ready rfl]

/-- A busy core always has a turn to take, which keeps the invariant and brings it one step closer to ready (R113). -/
theorem coreTurn_of_busy {s : State} (h : s.Inv) (hbusy : s.busy = true) :
    ∃ t, coreTurn exec s = .next t ∧ OneStepCloser s t := by
  obtain hphase | hphase | hphase := s.busy_iff.1 hbusy
  · exact coreTurn_keyexp h hphase
  · exact coreTurn_initial h hphase
  · exact coreTurn_round h hphase

theorem step_of_no_turns {s : State} (h : s.host = []) : step s = coreTurn exec s := by rw [step, h]

theorem run_succ_of_step {s t : State} (h : step s = .next t) (n : Nat) :
    Host.Core.run core (n + 1) s = Host.Core.run core n t := by
  have hstep : Host.Core.step core s = .next t := h
  simp only [Host.Core.run, hstep]

/-- A core left alone is ready after exactly the steps it has left. -/
theorem run_stepsLeft {s : State} (h : s.Inv) (hhost : s.host = []) :
    ∃ t : State, Host.Core.run core s.stepsLeft s = .next t ∧ t.busy = false := by
  induction hn : s.stepsLeft generalizing s with
  | zero =>
    refine ⟨s, rfl, Bool.eq_false_iff.2 fun hbusy => ?_⟩
    obtain ⟨t, -, hcloser⟩ := coreTurn_of_busy h hbusy
    have := hcloser.stepsLeft
    omega
  | succ n ih =>
    have hbusy : s.busy = true := by
      by_contra hready
      simp [State.stepsLeft_of_ready (Bool.eq_false_iff.2 hready)] at hn
    obtain ⟨u, hturn, hcloser⟩ := coreTurn_of_busy h hbusy
    rw [run_succ_of_step ((step_of_no_turns hhost).trans hturn)]
    exact ih hcloser.inv (hcloser.host.trans hhost) (by have := hcloser.stepsLeft; omega)

/-- Settles O54: a core left alone is ready after the steps it has left, of which the invariant allows forty. -/
theorem busyCoreIsReadyWithinFortySteps : Obligations.BusyCoreIsReadyWithinFortySteps := by
  intro s h hhost
  obtain ⟨t, hrun, hready⟩ := run_stepsLeft h hhost
  exact ⟨s.stepsLeft, t, h.stepsLeft_le, hrun, hready⟩

end Sys2Proof.Machine
end

section
/-! SUPPORT. A stretch of core steps, described state by state: what a run of the machine and a host procedure's wait make of it; and
what the core's turn leaves of the host's own fields. -/

namespace Sys2Proof.Machine

/-- No sequencer step takes a turn of the host or reads for it (R107 to R111). -/
theorem execSeq_hostFields {i : Instr} {s t : State} (h : execSeq i s = .next t) :
    t.host = s.host ∧ t.received = s.received := by
  unfold execSeq at h
  split at h
  · obtain ⟨-, -, -, p, q, rk, -, -, -, ⟨-, rfl⟩ | ⟨-, rfl⟩⟩ := execKxStep_next h <;> simp
  · obtain ⟨-, k, -, rfl⟩ := execRndInit_next h
    simp
  · obtain ⟨-, -, k, -, rfl⟩ := execRndFull_next h
    simp
  · obtain ⟨-, -, k, -, rfl⟩ := execRndFinal_next h
    simp
  · obtain ⟨-, -, rfl⟩ := execRndDone_next h
    simp
  · simp at h

/-- The core's turn leaves the host's turns and what it has read as they are (R113). -/
theorem coreTurn_hostFields {s t : State} (h : coreTurn exec s = .next t) :
    t.host = s.host ∧ t.received = s.received := by
  obtain ⟨i, hsel, hi⟩ | ⟨-, rfl⟩ := coreTurn_next h
  · exact execSeq_hostFields ((execSeq_eq_exec hsel s).trans hi)
  · exact ⟨rfl, rfl⟩

/-- `P n` describes the states after `n` turns of a core that is busy for `N` of them: in a state so described the core, before
its last turn, is busy and has a turn, which leads to a state described next. -/
structure CorePath (P : Nat → State → Prop) (N : Nat) : Prop where
  busy : ∀ {n w}, n < N → P n w → w.busy = true
  turn : ∀ {n w}, n < N → P n w → ∃ w', coreTurn exec w = .next w' ∧ P (n + 1) w'

variable {P : Nat → State → Prop} {N : Nat}

theorem CorePath.run_from (hpath : CorePath P N) {n i : Nat} {s : State} (hs : P i s) (hhost : s.host = []) (hn : i + n ≤ N) :
    ∃ t : State, Host.Core.run core n s = .next t ∧ P (i + n) t := by
  induction n generalizing i s with
  | zero => exact ⟨s, rfl, hs⟩
  | succ n ih =>
    obtain ⟨u, hturn, hu⟩ := hpath.turn (by omega) hs
    rw [run_succ_of_step ((step_of_no_turns hhost).trans hturn), ← Nat.succ_add_eq_add_succ]
    exact ih hu ((coreTurn_hostFields hturn).1.trans hhost) (by omega)

/-- A core left alone goes along the path. -/
theorem CorePath.run (hpath : CorePath P N) {s : State} (hs : P 0 s) (hhost : s.host = []) {n : Nat} (hn : n ≤ N) :
    ∃ t : State, Host.Core.run core n s = .next t ∧ P n t := by
  obtain ⟨t, hrun, ht⟩ := hpath.run_from hs hhost ((Nat.zero_add n).trans_le hn)
  exact ⟨t, hrun, (Nat.zero_add n).subst (motive := (P · t)) ht⟩

theorem CorePath.waitReady_from (hpath : CorePath P N) (hend : ∀ {w}, P N w → w.busy = false) {n i m : Nat} {s : State}
    (hs : P i s) (hn : i + n = N) (hm : n ≤ m) : ∃ t, waitReady m s = .next t ∧ P N t := by
  induction n generalizing i m s with
  | zero =>
    obtain rfl : i = N := hn
    exact ⟨s, waitReady_of_ready m (hend hs), hs⟩
  | succ n ih =>
    obtain ⟨m, rfl⟩ : ∃ m', m = m' + 1 := ⟨m - 1, by omega⟩
    obtain ⟨u, hturn, hu⟩ := hpath.turn (by omega) hs
    rw [waitReady_of_busy m (hpath.busy (by omega) hs), hturn]
    exact ih hu (by omega) (by omega)

/-- A host procedure's wait goes along the path to its end, when that is ready (R126). -/
theorem CorePath.waitReady (hpath : CorePath P N) (hend : ∀ {w}, P N w → w.busy = false) {s : State} (hs : P 0 s)
    (hN : N ≤ maxSteps) : ∃ t, waitReady maxSteps s = .next t ∧ P N t :=
  hpath.waitReady_from hend hs (Nat.zero_add N) hN

end Sys2Proof.Machine
end

section
/-! SUPPORT and PROOF. `NOP` and the commands at a busy core (R120, R121), and what the acceptance of a command answers. -/

namespace Sys2Proof.Machine

/-- A word held while the core is busy gives the core its turn (R120). -/
theorem step_hold_busy {s : State} {cw : CommandWord} {rest : List HostEvent} (hbusy : s.busy = true)
    (h : s.host = .hold cw :: rest) : step s = coreTurn exec s := by
  simp [step, h, hbusy]

/-- No command has an effect at a busy core (R120). -/
theorem exec_decode_busy {s : State} (h : s.busy = true) (cw : CommandWord) : exec (decode cw) s = .next s := by
  unfold decode
  split_ifs <;> exact accept_busy h _

/-- `LOADKEY` at a ready core writes the key to group 0 and starts the expansion (R122). -/
theorem exec_loadkey_ready {s : State} (h : s.busy = false) (din : Packed) :
    ∃ rk, memWrite s 0 16 (unpackKey din) = .ok rk ∧ exec (.loadkey din) s = .next (s.startExpansion rk) := by
  have hwrite := memWrite_ok (s := s) (v := unpackKey din) (addr := 0) (by decide)
  exact ⟨_, hwrite, by rw [exec, execLoadkey, accept_ready h, hwrite]⟩

/-- `ENCRYPT` at a ready core with a complete schedule starts the block (R123). -/
theorem exec_encrypt_ready {s : State} (hready : s.busy = false) (hkey : s.keyValid = true) (din : Packed) :
    exec (.encrypt din) s = .next (s.startBlock (unpack din)) := by
  rw [exec, execEncrypt, accept_ready hready, if_pos hkey]

/-- Settles O9: at a busy core each command's acceptance answers the unchanged state, and a held word gives the turn to the core,
which takes nothing off the host's list. -/
theorem commandWhileBusyHasNoEffect : Obligations.CommandWhileBusyHasNoEffect := by
  refine ⟨?commands, ?present, ?hold⟩
  case commands =>
    intro s din hbusy
    exact ⟨accept_busy hbusy _, accept_busy hbusy _, accept_busy hbusy _, accept_busy hbusy _⟩
  case present =>
    intro s cw rest hbusy hhost
    have hstep : step s = exec (decode cw) (s.setHost rest) := by rw [step, hhost]
    exact hstep.trans (exec_decode_busy (s := s.setHost rest) hbusy cw)
  case hold =>
    intro s t cw rest hbusy hhost hstep
    rw [step_hold_busy hbusy hhost] at hstep
    exact (coreTurn_hostFields hstep).1

/-- Settles O10: accepted or not, `NOP` answers the state it was given. -/
theorem nopChangesNothing : Obligations.NopChangesNothing := by
  intro s din
  cases hbusy : s.busy
  · exact accept_ready hbusy _
  · exact accept_busy hbusy _

end Sys2Proof.Machine
end

section
/-! SUPPORT and PROOF. The key expansion word by word, from the acceptance of `LOADKEY` to its end (R111, R122). -/

namespace Sys2Proof.Machine

/-- What `RK` holds when `n` words have been computed for a key loaded in `s`: the expansion's words so far, nothing changed
outside the space, and the canonical form kept. -/
structure ExpandedWords (s : State) (k : Block) (n : Nat) (rk : Memory) : Prop where
  holds : RkHolds rk (expandKey k) (4 * (n + 4))
  outside : ∀ a, 176 ≤ a → Memory.read rk a = Memory.read s.RK a
  wf : Memory.wf s.RK = true → Memory.wf rk = true

/-- The key in group 0 is the expansion before its first word. -/
theorem expandedWords_zero {s : State} {k : Block} {rk : Memory} (h : memWrite s 0 16 k = .ok rk) :
    ExpandedWords s k 0 rk := by
  obtain ⟨hkey, hrest, hwf⟩ := memWrite_spec h
  refine ⟨fun a ha => ?_, fun a ha => hrest a (by omega), hwf⟩
  have hbyte := hkey a ha
  rwa [Nat.zero_add, ← byteAt_expandKey_key k ha] at hbyte

/-- The state in which a key loaded in `s` has been expanded by `n` words, `RK` being `rk`. -/
def State.expanding (s : State) (n : Nat) (rk : Memory) : State :=
  { s.startExpansion rk with widx := BitVec.ofNat 6 (n + 4) }

/-- The state in which a key loaded in `s` has been expanded wholly, `RK` being `rk`. -/
def State.expanded (s : State) (rk : Memory) : State := (s.startExpansion rk).finishExpansion rk

theorem State.expanding_widx {s : State} {n : Nat} (hn : n < 40) (rk : Memory) : (s.expanding n rk).widx.toNat = n + 4 :=
  Nat.mod_eq_of_lt (by omega)

theorem State.expanding_nextWord (s : State) (n : Nat) (rk rk' : Memory) :
    (s.expanding n rk).nextWord rk' = s.expanding (n + 1) rk' := by
  simp only [State.expanding, State.nextWord, State.startExpansion, BitVec.ofNat_add, Nat.add_right_comm n 1 4]
  rfl

/-- Writing the next word of the expansion. -/
theorem ExpandedWords.succ {s : State} {k : Block} {n : Nat} {rk rk' : Memory} (h : ExpandedWords s k n rk) (hn : n < 40)
    (hwrite : memWrite (s.expanding n rk) (4 * (n + 4)) 4
      (kexpWord (n + 4) (Schedule.wordAt (expandKey k) (n + 4 - 1)) (Schedule.wordAt (expandKey k) (n + 4 - 4))) = .ok rk') :
    ExpandedWords s k (n + 1) rk' := by
  have hholds := rkHolds_memWrite_word (by omega) (by omega) h.holds hwrite
  obtain ⟨-, hrest, hwf⟩ := memWrite_spec hwrite
  exact ⟨Nat.add_right_comm n 4 1 ▸ hholds, fun a ha => (hrest a (by omega)).trans (h.outside a ha), hwf ∘ h.wf⟩

/-- The states of the expansion of `k` after `n` words (R111): in `KEYEXP` up to the last word, then done. -/
inductive ExpansionState (s : State) (k : Block) : Nat → State → Prop
  | word {n : Nat} {rk : Memory} (hn : n < 40) (hrk : ExpandedWords s k n rk) : ExpansionState s k n (s.expanding n rk)
  | done {rk : Memory} (hrk : ExpandedWords s k 40 rk) : ExpansionState s k 40 (s.expanded rk)

/-- The core's turn during the expansion writes the next word (R111). -/
theorem coreTurn_expanding {s : State} {k : Block} {n : Nat} {rk : Memory} (hn : n < 40) (hrk : ExpandedWords s k n rk) :
    ∃ t, coreTurn exec (s.expanding n rk) = .next t ∧ ExpansionState s k (n + 1) t := by
  have hwidx := State.expanding_widx (s := s) hn rk
  have hread {i : Nat} (hi : i < n + 4) (j : Nat) (hj : j < 4) :
      Memory.read rk (4 * i + j) = some (Schedule.wordAt (expandKey k) i)[j] := by
    rw [hrk.holds _ (by omega), Schedule.wordAt_get _ _ hj]
  obtain ⟨rk', hwrite, hexec⟩ :=
    exec_kxStep (s := s.expanding n rk) rfl (by omega) (by omega) (hread (by omega)) (hread (by omega))
  rw [hwidx] at hwrite hexec
  have hrk' := hrk.succ hn hwrite
  rw [coreTurn_of_selected ((selected_kxStep _).2 ⟨rfl, by omega, by omega⟩), hexec]
  by_cases hlast : n + 4 < 43
  · exact ⟨_, if_pos hlast, State.expanding_nextWord s n rk rk' ▸ .word (by omega) hrk'⟩
  · obtain rfl : n = 39 := by omega
    exact ⟨_, if_neg hlast, .done hrk'⟩

theorem expansionPath (s : State) (k : Block) : CorePath (ExpansionState s k) 40 where
  busy hn h := by
    cases h with
    | word => rfl
    | done => omega
  turn hn h := by
    cases h with
    | word _ hrk => exact coreTurn_expanding hn hrk
    | done => omega

/-- After forty words the expansion is done. -/
theorem ExpansionState.eq_expanded {s t : State} {k : Block} (h : ExpansionState s k 40 t) :
    ∃ rk, t = s.expanded rk ∧ ExpandedWords s k 40 rk := by
  cases h with
  | word hn => omega
  | done hrk => exact ⟨_, rfl, hrk⟩

/-- Then the core is ready. -/
theorem ExpansionState.ready {s t : State} {k : Block} (h : ExpansionState s k 40 t) : t.busy = false := by
  obtain ⟨rk, rfl, -⟩ := h.eq_expanded
  rfl

/-- Before that the core is busy without a complete schedule. -/
theorem ExpansionState.keyValid_of_lt {s t : State} {k : Block} {n : Nat} (hn : n < 40) (h : ExpansionState s k n t) :
    t.keyValid = false := by
  cases h with
  | word => rfl
  | done => omega

/-- Settles O44: the acceptance begins the path of the expansion, along which a core left alone goes for forty steps. -/
theorem loadkeyThenFortyStepsHoldsTheSchedule : Obligations.LoadkeyThenFortyStepsHoldsTheSchedule := by
  intro s din hready hhost
  obtain ⟨rk, hwrite, hload⟩ := exec_loadkey_ready hready din
  obtain ⟨hkey, hrest, -⟩ := memWrite_spec hwrite
  have hstart : ExpansionState s (unpackKey din) 0 (s.startExpansion rk) := .word (by omega) (expandedWords_zero hwrite)
  have hpath := expansionPath s (unpackKey din)
  obtain ⟨u, hu, hend⟩ := hpath.run hstart hhost le_rfl
  obtain ⟨rk', rfl, hrk'⟩ := hend.eq_expanded
  refine ⟨_, _, hload, hu, rfl, ?key, fun a ha => hrest a (by omega), hrk'.holds, hrk'.outside, rfl, ?busy⟩
  case key =>
    intro n hn
    simpa using hkey n hn
  case busy =>
    intro n hn
    obtain ⟨w, hw, hstate⟩ := hpath.run hstart hhost hn.le
    exact ⟨w, hw, hpath.busy hn hstate, hstate.keyValid_of_lt hn⟩

end Sys2Proof.Machine
end

section
/-! SUPPORT and PROOF. A block round by round, from the acceptance of `ENCRYPT` to its end (R105, R123). -/

namespace Sys2Proof.Machine

/-- The state in which a block accepted in `s` has gone through round `k`, with `c` in `S`. -/
def State.inRound (s : State) (c : Block) (k : Nat) : State :=
  { s with S := c, doutValid := false, phase := .round, round := BitVec.ofNat 4 k }

/-- The state in which a block accepted in `s` has been encrypted to `c`. -/
def State.afterBlock (s : State) (c : Block) : State :=
  { s with S := c, phase := .done, round := 10, dout := pack c, doutValid := true }

theorem State.inRound_dout (s : State) (c : Block) (k : Nat) : (s.inRound c k).dout = s.dout := rfl

theorem State.inRound_round_toNat (s : State) (c : Block) {k : Nat} (hk : k ≤ 10) : (s.inRound c k).round.toNat = k :=
  Nat.mod_eq_of_lt (by omega)

/-- The core's turn after the acceptance (R107). -/
theorem coreTurn_startBlock {s : State} {r : Schedule} (hrk : RkHolds s.RK r 176) (b : Block) :
    coreTurn exec (s.startBlock b) = .next (s.inRound (addRoundKey 0 b r) 0) := by
  rw [coreTurn_of_selected ((selected_rndInit _).2 rfl)]
  exact exec_rndInit rfl fun a ha => hrk a (by omega)

/-- The core's turn after a round before the ninth (R108). -/
theorem coreTurn_inRound {s : State} {r : Schedule} (hrk : RkHolds s.RK r 176) (c : Block) {k : Nat} (hk : k < 9) :
    coreTurn exec (s.inRound c k) = .next (s.inRound (fullRound (k + 1) c r) (k + 1)) := by
  have hround := s.inRound_round_toNat c (k := k) (by omega)
  rw [coreTurn_of_selected ((selected_rndFull _).2 ⟨rfl, by omega⟩),
    exec_rndFull (s := s.inRound c k) rfl (by omega) fun a _ ha => hrk a (by omega), hround, add_one_eq_ofNat, hround]
  rfl

/-- The core's turn after the ninth round (R109). -/
theorem coreTurn_inRound_nine {s : State} {r : Schedule} (hrk : RkHolds s.RK r 176) (c : Block) :
    coreTurn exec (s.inRound c 9) = .next (s.inRound (finalRound c r) 10) := by
  rw [coreTurn_of_selected ((selected_rndFinal _).2 ⟨rfl, rfl⟩)]
  exact exec_rndFinal rfl rfl fun a _ ha => hrk a ha

/-- The core's turn after the last round (R110). -/
theorem coreTurn_inRound_ten (s : State) (c : Block) : coreTurn exec (s.inRound c 10) = .next (s.afterBlock c) := by
  rw [coreTurn_of_selected ((selected_rndDone _).2 ⟨rfl, rfl⟩)]
  exact exec_rndDone rfl rfl

/-- The states of the encryption of `b` after `n` steps, in the order of R105. -/
inductive BlockState (s : State) (r : Schedule) (b : Block) : Nat → State → Prop
  | initial : BlockState s r b 0 (s.startBlock b)
  | round {k : Nat} (hk : k ≤ 9) : BlockState s r b (k + 1) (s.inRound (roundsTo b r k) k)
  | final : BlockState s r b 11 (s.inRound (cipher b r) 10)
  | done : BlockState s r b 12 (s.afterBlock (cipher b r))

theorem blockPath {s : State} {r : Schedule} (hrk : RkHolds s.RK r 176) (b : Block) : CorePath (BlockState s r b) 12 where
  busy hn h := by
    cases h with
    | initial | round | final => rfl
    | done => omega
  turn hn h := by
    cases h with
    | initial => exact ⟨_, coreTurn_startBlock hrk b, .round (Nat.zero_le 9)⟩
    | @round k hk =>
      obtain hlt | rfl := hk.lt_or_eq
      · exact ⟨_, coreTurn_inRound hrk _ hlt, .round hlt⟩
      · exact ⟨_, coreTurn_inRound_nine hrk _, .final⟩
    | final => exact ⟨_, coreTurn_inRound_ten s _, .done⟩
    | done => omega

/-- After `k + 1` steps, `k` up to 9, the block is in round `k`. -/
theorem BlockState.eq_inRound {s t : State} {r : Schedule} {b : Block} {k : Nat} (hk : k ≤ 9)
    (h : BlockState s r b (k + 1) t) : t = s.inRound (roundsTo b r k) k := by
  cases h with
  | round => rfl
  | final | done => omega

/-- After twelve steps the block is done. -/
theorem BlockState.eq_afterBlock {s t : State} {r : Schedule} {b : Block} (h : BlockState s r b 12 t) :
    t = s.afterBlock (cipher b r) := by
  cases h with
  | round => omega
  | done => rfl

/-- Then the core is ready. -/
theorem BlockState.ready {s t : State} {r : Schedule} {b : Block} (h : BlockState s r b 12 t) : t.busy = false := by
  rw [h.eq_afterBlock]
  rfl

/-- Before that `dout` stands as it was. -/
theorem BlockState.dout_of_lt {s t : State} {r : Schedule} {b : Block} {n : Nat} (hn : n < 12) (h : BlockState s r b n t) :
    t.dout = s.dout := by
  cases h with
  | initial => exact s.startBlock_dout b
  | round | final => exact s.inRound_dout _ _
  | done => omega

/-- Settles O45: the acceptance begins the path of the block, along which a core left alone goes for twelve steps. -/
theorem encryptThenTwelveStepsGivesTheCiphertext : Obligations.EncryptThenTwelveStepsGivesTheCiphertext := by
  refine ⟨?block, fun s din => exec_encrypt_noKey din⟩
  intro s din r hready hkey hhost hrk
  have hpath := blockPath hrk (unpack din)
  have hstart : BlockState s r (unpack din) 0 (s.startBlock (unpack din)) := .initial
  have halone : (s.startBlock (unpack din)).host = [] := (s.startBlock_host _).trans hhost
  obtain ⟨u, hu, hend⟩ := hpath.run hstart halone le_rfl
  refine ⟨_, u, exec_encrypt_ready hready hkey din, hu, rfl, hend.eq_afterBlock, ?rounds, ?busy⟩
  case rounds =>
    intro k hk
    obtain ⟨w, hw, hstate⟩ := hpath.run hstart halone (n := k + 1) (by omega)
    obtain rfl := hstate.eq_inRound hk
    exact ⟨_, hw, rfl, rfl, rfl⟩
  case busy =>
    intro n hn
    obtain ⟨w, hw, hstate⟩ := hpath.run hstart halone hn.le
    exact ⟨w, hw, hpath.busy hn hstate, hstate.dout_of_lt hn⟩

end Sys2Proof.Machine
end

section
/-! SUPPORT and PROOF. The host procedures: a wait from any state that keeps the invariant, the key, and the loop over the blocks
(R126, R127). -/

namespace Sys2Proof.Machine

/-- What a wait for the core leaves as it is: the error flags and the host's own fields. -/
structure OutsideKept (s t : State) : Prop where
  errNokey : t.errNokey = s.errNokey
  errBadcmd : t.errBadcmd = s.errBadcmd
  host : t.host = s.host
  received : t.received = s.received

theorem outsideKept_coreTurn {s u t : State} (hs : OutsideKept s u) (h : coreTurn exec u = .next t) : OutsideKept s t := by
  obtain ⟨hnokey, hbadcmd⟩ := coreTurn_flags h
  obtain ⟨hhost, hreceived⟩ := coreTurn_hostFields h
  exact ⟨hnokey.trans hs.errNokey, hbadcmd.trans hs.errBadcmd, hhost.trans hs.host, hreceived.trans hs.received⟩

theorem State.busy_of_stepsLeft_pos {s : State} (h : 0 < s.stepsLeft) : s.busy = true := by
  by_contra hready
  rw [State.stepsLeft_of_ready (Bool.eq_false_iff.2 hready)] at h
  exact h.false

/-- A core that keeps the invariant goes through the steps it has left (R113). -/
theorem stepsLeftPath (s : State) : CorePath (fun n w => w.Inv ∧ w.stepsLeft + n = s.stepsLeft) s.stepsLeft where
  busy hn h := State.busy_of_stepsLeft_pos (by omega)
  turn := by
    rintro n w hn ⟨hinv, hleft⟩
    obtain ⟨t, hturn, hcloser⟩ := coreTurn_of_busy hinv (State.busy_of_stepsLeft_pos (by omega))
    have hless := hcloser.stepsLeft
    exact ⟨t, hturn, hcloser.inv, by omega⟩

/-- A core that keeps the invariant and has no step left is ready. -/
theorem State.Inv.ready_of_stepsLeft {s : State} (h : s.Inv) (hleft : s.stepsLeft = 0) : s.busy = false := by
  refine Bool.eq_false_iff.2 fun hbusy => ?_
  obtain ⟨t, -, hcloser⟩ := coreTurn_of_busy h hbusy
  have hless := hcloser.stepsLeft
  omega

/-- From a state that keeps the invariant the wait ends, in a ready state that keeps it (R126). -/
theorem waitReady_of_inv {s : State} (h : s.Inv) :
    ∃ t, waitReady maxSteps s = .next t ∧ t.busy = false ∧ t.Inv ∧ OutsideKept s t := by
  obtain ⟨t, hwait, hinv, -⟩ := (stepsLeftPath s).waitReady (fun hw => hw.1.ready_of_stepsLeft (by omega)) ⟨h, rfl⟩
    h.stepsLeft_le
  obtain ⟨hready, hkept⟩ := waitReady_next (Q := OutsideKept s) (fun _ _ _ => outsideKept_coreTurn) hwait ⟨rfl, rfl, rfl, rfl⟩
  exact ⟨t, hwait, hready, hinv, hkept⟩

/-- After the acceptance of `LOADKEY` the wait ends with the schedule in `RK` (R126). -/
theorem waitReady_startExpansion {s : State} {k : Block} {rk : Memory} (h : memWrite s 0 16 k = .ok rk) :
    ∃ rk', waitReady maxSteps (s.startExpansion rk) = .next (s.expanded rk') ∧ ExpandedWords s k 40 rk' := by
  have hstart : ExpansionState s k 0 (s.startExpansion rk) := .word (by omega) (expandedWords_zero h)
  obtain ⟨t, hwait, hend⟩ := (expansionPath s k).waitReady ExpansionState.ready hstart le_rfl
  obtain ⟨rk', rfl, hrk'⟩ := hend.eq_expanded
  exact ⟨rk', hwait, hrk'⟩

/-- After the acceptance of a block the wait ends with its ciphertext in `dout` (R126). -/
theorem waitReady_startBlock {s : State} {r : Schedule} (hrk : RkHolds s.RK r 176) (b : Block) :
    waitReady maxSteps (s.startBlock b) = .next (s.afterBlock (cipher b r)) := by
  obtain ⟨t, hwait, hend⟩ := (blockPath hrk b).waitReady BlockState.ready .initial (by decide)
  rwa [hend.eq_afterBlock] at hwait

/-- A key expanded wholly in a state that keeps the invariant: the invariant holds again (R17). -/
theorem State.Inv.expanded {s : State} (h : s.Inv) {k : Block} {rk : Memory} (hrk : ExpandedWords s k 40 rk) :
    (s.expanded rk).Inv where
  memory := hrk.wf h.memory
  round_le := by simp [State.expanded]
  widx_range := by simp [State.expanded]
  keyexp_invalid := by simp [State.expanded]
  block_valid := by simp [State.expanded]
  dout_valid_iff := by simp [State.expanded]
  keyexp_prefix := by simp [State.expanded]
  schedule _ := ⟨k, hrk.holds⟩

/-- A block encrypted in a state that keeps the invariant: the invariant holds again (R25). -/
theorem State.Inv.afterBlock {s : State} (h : s.Inv) (hkey : s.keyValid = true) (c : Block) : (s.afterBlock c).Inv where
  memory := h.memory
  round_le := by simp [State.afterBlock]
  widx_range := by simp [State.afterBlock]
  keyexp_invalid := by simp [State.afterBlock]
  block_valid _ := hkey
  dout_valid_iff := by simp [State.afterBlock]
  keyexp_prefix := by simp [State.afterBlock]
  schedule := h.schedule

/-- Returning a value keeps the invariant, which does not speak of it. -/
theorem State.Inv.setResult {s : State} (h : s.Inv) (res : Result) : (s.setResult res).Inv :=
  ⟨h.memory, h.round_le, h.widx_range, h.keyexp_invalid, h.block_valid, h.dout_valid_iff, h.keyexp_prefix, h.schedule⟩

/-- The state in which the blocks `vs`, accepted one after the other from `s`, have been encrypted under `r`: only the last one
shows. -/
def State.afterBlocks (s : State) (r : Schedule) (vs : List Packed) : State :=
  match vs.getLast? with
  | none => s
  | some v => s.afterBlock (cipher (unpack v) r)

theorem State.afterBlocks_of_getLast? {s : State} {r : Schedule} {vs : List Packed} {v : Packed} (h : vs.getLast? = some v) :
    s.afterBlocks r vs = s.afterBlock (cipher (unpack v) r) := by
  rw [State.afterBlocks, h]

theorem State.afterBlocks_cons (s : State) (r : Schedule) (v : Packed) (vs : List Packed) :
    s.afterBlocks r (v :: vs) = (s.afterBlock (cipher (unpack v) r)).afterBlocks r vs := by
  cases hlast : vs.getLast? <;> simp [State.afterBlocks, List.getLast?_cons, hlast, State.afterBlock]

/-- What holds of a state and after every block holds after all of them. -/
theorem State.afterBlocks_cases {Q : State → Prop} {s : State} (h : Q s) (hblock : ∀ c, Q (s.afterBlock c)) (r : Schedule)
    (vs : List Packed) : Q (s.afterBlocks r vs) := by
  cases hlast : vs.getLast? with
  | none => rwa [State.afterBlocks, hlast]
  | some v => exact State.afterBlocks_of_getLast? hlast ▸ hblock _

theorem andThen_of_next {o : Out} {s : State} (h : o = .next s) (f : State → Out) : andThen o f = f s := by
  rw [h, andThen]

/-- One block of the loop, from a ready state with a schedule in `RK` (R126). -/
theorem batchLoop_cons (ret : List Packed → Result) {r : Schedule} (v : Packed) (vs c : List Packed) {s : State}
    (hready : s.busy = false) (hkey : s.keyValid = true) (hrk : RkHolds s.RK r 176) :
    batchLoop ret (v :: vs) c s =
      batchLoop ret vs (c ++ [pack (cipher (unpack v) r)]) (s.afterBlock (cipher (unpack v) r)) := by
  have hencrypt : execEncrypt v s = .next (s.startBlock (unpack v)) := exec_encrypt_ready hready hkey v
  rw [batchLoop, andThen_of_next hencrypt, andThen_of_next (waitReady_startBlock hrk _)]
  exact if_pos rfl

/-- The loop over the blocks (R126): they are encrypted one after the other and their ciphertexts returned in order. -/
theorem batchLoop_of_schedule (ret : List Packed → Result) {r : Schedule} (vs c : List Packed) {s : State}
    (hready : s.busy = false) (hkey : s.keyValid = true) (hrk : RkHolds s.RK r 176) :
    batchLoop ret vs c s =
      .next ((s.afterBlocks r vs).setResult (ret (c ++ vs.map fun v => pack (cipher (unpack v) r)))) := by
  induction vs generalizing c s with
  | nil => rw [batchLoop, List.map_nil, List.append_nil, State.afterBlocks, List.getLast?_nil]
  | cons v vs ih =>
    rw [batchLoop_cons ret v vs c hready hkey hrk, ih (s := s.afterBlock _) _ rfl hkey hrk, State.afterBlocks_cons, List.map_cons,
      List.append_assoc, List.singleton_append]

/-- A ready state with the whole schedule of `k`, reached from `s` with no error raised. -/
structure KeyReady (s : State) (k : Block) (t : State) : Prop where
  inv : t.Inv
  ready : t.busy = false
  keyValid : t.keyValid = true
  schedule : RkHolds t.RK (expandKey k) 176
  outside : OutsideKept s t

theorem KeyReady.afterBlocks {s t : State} {k : Block} (h : KeyReady s k t) (r : Schedule) (vs : List Packed) :
    KeyReady s k (t.afterBlocks r vs) :=
  State.afterBlocks_cases h (fun c => ⟨h.inv.afterBlock h.keyValid c, rfl, h.keyValid, h.schedule,
    h.outside.errNokey, h.outside.errBadcmd, h.outside.host, h.outside.received⟩) r vs

theorem KeyReady.setResult {s t : State} {k : Block} (h : KeyReady s k t) (res : Result) : KeyReady s k (t.setResult res) :=
  ⟨h.inv.setResult res, h.ready, h.keyValid, h.schedule,
    h.outside.errNokey, h.outside.errBadcmd, h.outside.host, h.outside.received⟩

/-- A host procedure, from a state that keeps the invariant: it loads the key, then encrypts each block (R126). -/
theorem runBatch_of_inv {s : State} (h : s.Inv) (k : Packed) (vs : List Packed) (ret : List Packed → Result) :
    ∃ u, KeyReady s (unpackKey k) u ∧ u.phase = .idle ∧
      runBatch k vs ret s =
        .next ((u.afterBlocks (expandKey (unpackKey k)) vs).setResult (ret (vs.map (encryptBlock k)))) := by
  obtain ⟨t, hwait, hready, hinv, hkept⟩ := waitReady_of_inv h
  obtain ⟨rk, hwrite, hload⟩ := exec_loadkey_ready hready k
  obtain ⟨rk', hexpand, hrk'⟩ := waitReady_startExpansion hwrite
  have hkeyReady : KeyReady s (unpackKey k) (t.expanded rk') :=
    ⟨hinv.expanded hrk', rfl, rfl, hrk'.holds, hkept.errNokey, hkept.errBadcmd, hkept.host, hkept.received⟩
  refine ⟨_, hkeyReady, rfl, ?_⟩
  rw [runBatch, andThen_of_next hwait, andThen_of_next (o := execLoadkey k t) hload, andThen_of_next hexpand]
  exact batchLoop_of_schedule ret vs [] rfl rfl hrk'.holds

/-- The end of a run whose reads are the values `f` gives for the blocks (R165). -/
theorem State.runOver_map {t : State} {f : Packed → Packed} {vs : List Packed} (hready : t.busy = false)
    (hempty : vs = [] → t.phase = .idle)
    (hlast : ∀ v, vs.getLast? = some v → t.phase = .done ∧ t.doutValid = true ∧ t.dout = f v) :
    t.runOver vs.length (vs.map f) := by
  refine ⟨hready, List.length_map f, fun hzero => hempty (List.length_eq_zero_iff.1 hzero), fun hne => ?_⟩
  have hcons : vs ≠ [] := fun hnil => hne (hnil ▸ rfl)
  obtain ⟨hdone, -, hdout⟩ := hlast _ (List.getLast?_eq_some_getLast hcons)
  exact ⟨hdone, by rw [List.getLast?_map, List.getLast?_eq_some_getLast hcons, Option.map_some, hdout]⟩

/-- Settles O46: the batch ends in the state after its last block, or in that after the expansion if there is none. -/
theorem encryptBlocksHwReturnsEveryCiphertext : Obligations.EncryptBlocksHwReturnsEveryCiphertext := by
  intro s k vs h
  obtain ⟨u, hu, hidle, hrun⟩ := runBatch_of_inv h k vs .packedBlocks
  have hend := (hu.afterBlocks (expandKey (unpackKey k)) vs).setResult (.packedBlocks (vs.map (encryptBlock k)))
  have hempty : vs = [] → (u.afterBlocks (expandKey (unpackKey k)) vs).phase = .idle := by
    rintro rfl
    exact hidle
  have hlast : ∀ v, vs.getLast? = some v → (u.afterBlocks (expandKey (unpackKey k)) vs).phase = .done ∧
      (u.afterBlocks (expandKey (unpackKey k)) vs).doutValid = true ∧
      (u.afterBlocks (expandKey (unpackKey k)) vs).dout = encryptBlock k v := by
    intro v hv
    rw [State.afterBlocks_of_getLast? hv]
    exact ⟨rfl, rfl, rfl⟩
  have hover := State.runOver_map (t := State.setResult _ (.packedBlocks _)) hend.ready hempty hlast
  obtain ⟨hinv, hready, hkey, hrk, hnokey, hbadcmd, hhost, hreceived⟩ := hend
  exact ⟨_, hrun, rfl, hrk, hkey, hready, hempty, hlast, hnokey, hbadcmd, hhost, hreceived, hinv, hover,
    fun hno => ⟨hover, hnokey.trans hno.1, hbadcmd.trans hno.2⟩⟩

/-- On the wire and back, a packed block's encryption is the cipher on its bytes (R100, R125). -/
theorem fromWire_encryptBlock (k b : Block) :
    fromWire (encryptBlock (toWire k) (toWire b)) = cipher b (expandKey k) := by
  rw [fromWire, encryptBlock, unpack_pack, ← unpack_eq_unpackKey, toWire, toWire, unpack_pack, unpack_pack]

/-- Settles O47: the two length checks come first; then the batch runs on the wire values of the key and the blocks. -/
theorem encryptBlocksChecksLengthsThenEncrypts : Obligations.EncryptBlocksChecksLengthsThenEncrypts := by
  refine ⟨?lengthsGood, ?keyLength, ?blockLength⟩
  case lengthsGood =>
    intro s key blocks h hkey hblocks
    obtain ⟨u, hu, -, hrun⟩ := runBatch_of_inv h (toWire (blockOfBytes key)) (blocks.map fun b => toWire (blockOfBytes b))
      fun c => .byteBlocks (c.map fromWire)
    obtain ⟨hinv, -, -, -, hnokey, hbadcmd, hhost, hreceived⟩ := (hu.afterBlocks _ _).setResult _
    have hexec : exec (.encryptblocks key blocks) s = runBatch _ _ _ s :=
      (if_neg (by simpa using hkey)).trans (if_neg (by simpa using hblocks))
    refine ⟨_, hexec.trans hrun, ?_, hnokey, hbadcmd, hhost, hreceived, hinv⟩
    simp only [State.setResult_result, List.map_map, Function.comp_def, fromWire_encryptBlock]
  case keyLength =>
    intro s key blocks hkey
    exact if_pos hkey
  case blockLength =>
    intro s key blocks hkey hblock
    exact (if_neg (by simpa using hkey)).trans (if_pos (by simpa using hblock))

end Sys2Proof.Machine
end

section
/-! PROOF. The commands that only raise an error at a ready core: `ENCRYPT` without a complete schedule (R138) and the reserved
command (R139). The error's flag is the one register either writes. -/

namespace Sys2Proof.Machine

/-- `NoKey` sets `err_nokey` and writes nothing else (R138, R143). -/
theorem State.raise_noKey (s : State) : s.raise .noKey = { s with errNokey := true } := rfl

/-- `ReservedCommand` sets `err_badcmd` and writes nothing else (R139, R143). -/
theorem State.raise_reservedCommand (s : State) : s.raise .reservedCommand = { s with errBadcmd := true } := rfl

/-- Settles O13: the command is accepted and raises `NoKey`. -/
theorem encryptWithoutKeyRaisesNoKey : Obligations.EncryptWithoutKeyRaisesNoKey := by
  intro s din hready hkey
  rw [exec_encrypt_noKey din hready hkey, State.raise_noKey]

/-- Settles O14: the command is accepted and raises `ReservedCommand`. -/
theorem reservedCommandSetsErrBadcmd : Obligations.ReservedCommandSetsErrBadcmd := by
  intro s din hready
  rw [exec_rsvd_ready din hready, State.raise_reservedCommand]

end Sys2Proof.Machine
end

section
/-! PROOF. The reset event (R155, R156, R142): it leaves a ready core with every flag cleared. -/

namespace Sys2Proof.Machine

/-- A core that took the reset event is ready (R155). -/
@[simp] theorem State.busy_takeReset (s : State) : s.takeReset.busy = false := rfl

/-- A core that took the reset event shows all five bits of `STATUS` cleared (R20, R155). -/
@[simp] theorem State.status_takeReset (s : State) : s.takeReset.status = 0b00000#5 := by simp [State.status]

/-- Taking turns off the host's list does not change `STATUS` (R20). -/
@[simp] theorem State.status_setHost (s : State) (rest : List HostEvent) : (s.setHost rest).status = s.status := rfl

/-- Settles O53: the step is `takeReset` with the turn taken off; it leaves a ready core without a schedule, so a block raises
`NoKey`. -/
theorem resetEventAbandonsTheWorkInHand : Obligations.ResetEventAbandonsTheWorkInHand := by
  intro s rest hrst
  have hready : (s.takeReset.setHost rest).busy = false := by simp
  have hkey : (s.takeReset.setHost rest).keyValid = false := by simp
  have hstatus : (s.takeReset.setHost rest).status = 0b00000#5 := by simp
  exact ⟨_, step_rst hrst, rfl, hkey, rfl, rfl, rfl, hready, hstatus, rfl, rfl,
    fun din => encryptWithoutKeyRaisesNoKey _ din hready hkey⟩

end Sys2Proof.Machine
end

section
/-! SUPPORT and PROOF. The command words: their two fields, the command each code stands for, and the lines of text that are
commands (R50, R51, R53, R59, R60). -/

namespace Sys2Proof

theorem dinField_commandWord (c : BitVec 2) (d : Packed) : dinField (commandWord c d) = d := by
  rw [dinField, commandWord, BitVec.extractLsb'_append_eq_of_add_le (by omega), BitVec.extractLsb'_eq_self]

/-- A command word is its two fields: no bit lies outside them (R50). -/
theorem commandWord_fields (cw : CommandWord) : commandWord (cmdField cw) (dinField cw) = cw := by
  refine BitVec.eq_of_getLsbD_eq fun j hj => ?_
  rw [commandWord, BitVec.getLsbD_append, cmdField, dinField, BitVec.getLsbD_extractLsb', BitVec.getLsbD_extractLsb']
  by_cases hlow : j < 128
  · simp [hlow]
  · have hcode : j - 128 < 2 := by omega
    have hbit : 128 + (j - 128) = j := by omega
    simp [hlow, hcode, hbit]

/-- What a word stands for, by the four codes (R51, R53). -/
theorem decode_cases (cw : CommandWord) :
    (cmdField cw = 0b00#2 ∧ decode cw = .nop (dinField cw)) ∨ (cmdField cw = 0b01#2 ∧ decode cw = .loadkey (dinField cw)) ∨
      (cmdField cw = 0b10#2 ∧ decode cw = .encrypt (dinField cw)) ∨
      (cmdField cw = 0b11#2 ∧ decode cw = .rsvd (dinField cw)) := by
  have hcodes : ∀ c : BitVec 2, c = 0b00#2 ∨ c = 0b01#2 ∨ c = 0b10#2 ∨ c = 0b11#2 := by decide
  obtain h | h | h | h := hcodes (cmdField cw) <;> simp [decode, h]

/-- The encoder writes the two fields that the decoder reads. -/
theorem encode_decode (cw : CommandWord) : encode (decode cw) = some cw := by
  have hfields := commandWord_fields cw
  obtain ⟨hcode, hcommand⟩ | ⟨hcode, hcommand⟩ | ⟨hcode, hcommand⟩ | ⟨hcode, hcommand⟩ := decode_cases cw
  all_goals
    rw [hcode] at hfields
    rw [hcommand, encode, hfields]

theorem decode_commandWord (c : BitVec 2) (d : Packed) :
    decode (commandWord c d) =
      if c = 0b00#2 then .nop d else if c = 0b01#2 then .loadkey d else if c = 0b10#2 then .encrypt d else .rsvd d := by
  rw [decode, Laws.CommandCode.cmdField_commandWord, dinField_commandWord]

/-- Only the four host commands have a word (R51, R56, R57). -/
theorem encode_eq_some {i : Instr} {cw : CommandWord} (h : encode i = some cw) :
    ∃ din, (i = .nop din ∧ cw = commandWord 0b00#2 din) ∨ (i = .loadkey din ∧ cw = commandWord 0b01#2 din) ∨
      (i = .encrypt din ∧ cw = commandWord 0b10#2 din) ∨ (i = .rsvd din ∧ cw = commandWord 0b11#2 din) := by
  cases i with
  | nop din => exact ⟨din, .inl ⟨rfl, (Option.some.inj h).symm⟩⟩
  | loadkey din => exact ⟨din, .inr (.inl ⟨rfl, (Option.some.inj h).symm⟩)⟩
  | encrypt din => exact ⟨din, .inr (.inr (.inl ⟨rfl, (Option.some.inj h).symm⟩))⟩
  | rsvd din => exact ⟨din, .inr (.inr (.inr ⟨rfl, (Option.some.inj h).symm⟩))⟩
  | _ => simp [encode] at h

end Sys2Proof

namespace Sys2Proof.Machine

/-- Settles O1: the six words are decoded by evaluation. -/
theorem commandWordsDecodeAsWritten : Obligations.CommandWordsDecodeAsWritten := by
  unfold Obligations.CommandWordsDecodeAsWritten
  decide

/-- Settles O2: a command that has a word is one of four, and the decoder reads back the two fields the encoder wrote. -/
theorem decodeOfEncodeIsTheCommand : Obligations.DecodeOfEncodeIsTheCommand := by
  refine ⟨?decode, fun i => ⟨?encoded, ?command⟩⟩
  case decode =>
    intro i cw h
    obtain ⟨din, ⟨rfl, rfl⟩ | ⟨rfl, rfl⟩ | ⟨rfl, rfl⟩ | ⟨rfl, rfl⟩⟩ := encode_eq_some h
    all_goals rw [decode_commandWord]; rfl
  case encoded =>
    intro h
    obtain ⟨cw, hcw⟩ := Option.isSome_iff_exists.1 h
    obtain ⟨din, hi⟩ := encode_eq_some hcw
    exact ⟨din, hi.imp And.left (.imp And.left (.imp And.left And.left))⟩
  case command =>
    rintro ⟨din, rfl | rfl | rfl | rfl⟩ <;> rfl

/-- Settles O3: the decoder drops no bit of either field. -/
theorem encodeOfDecodeIsTheWord : Obligations.EncodeOfDecodeIsTheWord := encode_decode

/-- Settles O5: each pseudo-command by its equations; the spec's lines are parsed and encoded by evaluation. -/
theorem pseudoCommandsExpandAsWritten : Obligations.PseudoCommandsExpandAsWritten := by
  refine ⟨fun _ => rfl, fun _ => rfl, rfl, rfl, ?loadkeyB, ?encrypt, ?text, fun _ _ => rfl⟩
  case loadkeyB => decide
  case encrypt => decide
  case text => decide

end Sys2Proof.Machine
end

section
/-! SUPPORT and PROOF. One equation per turn of the host: what `step` is when that turn stands first (R9, R120, R124, R130). -/

namespace Sys2Proof.Machine

section
variable {s : State} {rest : List HostEvent}

theorem step_core (h : s.host = .core :: rest) : step s = coreTurn exec (s.setHost rest) := by rw [step, h]

theorem step_present {cw : CommandWord} (h : s.host = .present cw :: rest) :
    step s = exec (decode cw) (s.setHost rest) := by rw [step, h]

theorem step_hold_ready {cw : CommandWord} (hready : s.busy = false) (h : s.host = .hold cw :: rest) :
    step s = exec (decode cw) (s.setHost rest) := by simp [step, h, hready]

theorem step_wait_busy (hbusy : s.busy = true) (h : s.host = .wait :: rest) : step s = coreTurn exec s := by
  simp [step, h, hbusy]

theorem step_wait_ready (hready : s.busy = false) (h : s.host = .wait :: rest) : step s = .next (s.setHost rest) := by
  simp [step, h, hready]

theorem step_readDout_valid (hvalid : s.doutValid = true) (h : s.host = .readDout :: rest) :
    step s = .next (s.recordDout.setHost rest) := by simp [step, h, hvalid]

theorem step_readDout_invalid (hvalid : s.doutValid = false) (h : s.host = .readDout :: rest) :
    step s = coreTurn exec s := by simp [step, h, hvalid]

theorem step_batchHw {k : Packed} {vs : List Packed} (h : s.host = .batchHw k vs :: rest) :
    step s = exec (.encryptblockshw k vs) (s.setHost rest) := by rw [step, h]

theorem step_batch {key : List Byte} {blocks : List (List Byte)} (h : s.host = .batch key blocks :: rest) :
    step s = exec (.encryptblocks key blocks) (s.setHost rest) := by rw [step, h]

end

/-- Only a busy core has a step (R56, R113). -/
theorem State.busy_of_selected {s : State} {i : Instr} (h : s.selected = some i) : s.busy = true := by
  by_contra hready
  have hnone := selected_none_of_ready (Bool.eq_false_iff.2 hready)
  simp [hnone] at h

/-- Settles O6: in each of the four turns `step` runs the operation with the turn taken off. -/
theorem stepRunsThePresentedCommand : Obligations.StepRunsThePresentedCommand :=
  ⟨fun _ _ _ => step_present, fun _ _ _ h hready => step_hold_ready hready h, fun _ _ _ _ => step_batchHw,
    fun _ _ _ _ => step_batch⟩

/-- Settles O7: in each of the five turns the core moves, and its turn is the selected step. A held word and a wait leave it
the turn because a core that has a step is busy. -/
theorem stepRunsTheSelectedSequencerStep : Obligations.StepRunsTheSelectedSequencerStep := by
  intro s i hsel
  have hbusy := State.busy_of_selected hsel
  have hturn : coreTurn exec s = exec i s := coreTurn_of_selected hsel
  refine ⟨fun h => (step_of_no_turns h).trans hturn, fun rest h => ?core, fun _ _ h => (step_hold_busy hbusy h).trans hturn,
    fun _ h => (step_wait_busy hbusy h).trans hturn, fun _ h hvalid => (step_readDout_invalid hvalid h).trans hturn⟩
  case core =>
    have hsel' : (s.setHost rest).selected = some i := hsel
    exact (step_core h).trans (coreTurn_of_selected hsel')

/-- Settles O8: a ready core stays in its turn, and a read answers the same core. -/
theorem readyCoreStaysAndReadingHasNoEffect : Obligations.ReadyCoreStaysAndReadingHasNoEffect := by
  refine ⟨?ready, fun _ _ h hvalid => step_readDout_valid hvalid h, ?notValid⟩
  case ready =>
    intro s hphase
    have hready : s.busy = false := s.busy_eq_false_iff.2 hphase
    exact ⟨fun h => (step_of_no_turns h).trans (coreTurn_of_ready hready),
      fun rest h => (step_core h).trans (coreTurn_of_ready (s := s.setHost rest) hready),
      fun _ h => step_wait_ready hready h⟩
  case notValid =>
    intro s t rest h hvalid hstep
    rw [step_readDout_invalid hvalid h] at hstep
    exact (coreTurn_hostFields hstep).2

/-- A sequencer step at a state that does not select it stops by name (R56, U7). -/
theorem exec_of_not_selected {s : State} {i : Instr}
    (hi : i = .kxStep ∨ i = .rndInit ∨ i = .rndFull ∨ i = .rndFinal ∨ i = .rndDone) (h : s.selected ≠ some i) :
    exec i s = .refused .stepNotSelected := by
  obtain rfl | rfl | rfl | rfl | rfl := hi <;> exact if_neg h

/-- The core's turn in a busy state that no row of the table covers (U7). -/
theorem coreTurn_of_not_selected {s : State} (hbusy : s.busy = true) (h : s.selected = none) :
    coreTurn exec s = .refused .noStepSelected := by
  simp [coreTurn, h, hbusy]

/-- Settles O20: each step begins with the test that its row of the table applies. -/
theorem unselectedStepsStopByName : Obligations.UnselectedStepsStopByName :=
  ⟨fun _ _ => exec_of_not_selected, fun _ hbusy hsel hhost =>
    (step_of_no_turns hhost).trans (coreTurn_of_not_selected hbusy hsel)⟩

end Sys2Proof.Machine
end

section
/-! SUPPORT and PROOF. The invariant is kept, and no step stops: from a state that keeps it every turn is answered, by a state that
keeps it (R12, R17, R25, R140). -/

namespace Sys2Proof.Machine

/-- The invariant speaks of six registers only. -/
theorem State.Inv.of_eq {s t : State} (h : s.Inv) (hrk : t.RK = s.RK) (hphase : t.phase = s.phase)
    (hround : t.round = s.round) (hwidx : t.widx = s.widx) (hkey : t.keyValid = s.keyValid)
    (hvalid : t.doutValid = s.doutValid) : t.Inv := by
  obtain ⟨⟩ := t
  subst hrk hphase hround hwidx hkey hvalid
  exact ⟨h.memory, h.round_le, h.widx_range, h.keyexp_invalid, h.block_valid, h.dout_valid_iff, h.keyexp_prefix, h.schedule⟩

theorem State.Inv.setHost {s : State} (h : s.Inv) (rest : List HostEvent) : (s.setHost rest).Inv :=
  h.of_eq rfl rfl rfl rfl rfl rfl

theorem State.Inv.recordDout {s : State} (h : s.Inv) : s.recordDout.Inv := h.of_eq rfl rfl rfl rfl rfl rfl

theorem State.Inv.raise {s : State} (h : s.Inv) (e : ErrorCause) : (s.raise e).Inv :=
  h.of_eq (s.raise_RK e) (s.raise_phase e) (s.raise_round e) (s.raise_widx e) (s.raise_keyValid e) (s.raise_doutValid e)

/-- In `IDLE` without a schedule and without a result there is nothing to keep: so it is after reset (R25, R155). -/
theorem State.Inv.of_idle_empty {s : State} (hrk : s.RK = []) (hphase : s.phase = .idle) (hkey : s.keyValid = false)
    (hvalid : s.doutValid = false) : s.Inv where
  memory := by rw [hrk]; rfl
  round_le := by simp [hphase]
  widx_range := by simp [hphase]
  keyexp_invalid := by simp [hphase]
  block_valid := by simp [hphase]
  dout_valid_iff := by simp [hphase, hvalid]
  keyexp_prefix := by simp [hphase]
  schedule := by simp [hkey]

theorem State.Inv.takeReset (s : State) : s.takeReset.Inv := .of_idle_empty rfl rfl rfl rfl

/-- Starting an expansion keeps the invariant when the key stands in group 0, the first four words (R122). -/
theorem State.Inv.startExpansion {s : State} (h : s.Inv) {k : Block} {rk : Memory} (hwrite : memWrite s 0 16 k = .ok rk) :
    (s.startExpansion rk).Inv where
  memory := (expandedWords_zero hwrite).wf h.memory
  round_le := by simp
  widx_range := by simp
  keyexp_invalid := by simp
  block_valid := by simp
  dout_valid_iff := by simp
  keyexp_prefix _ := ⟨k, (expandedWords_zero hwrite).holds⟩
  schedule := by simp

/-- Starting a block keeps the invariant, since there is a schedule (R123). -/
theorem State.Inv.startBlock {s : State} (h : s.Inv) (hkey : s.keyValid = true) (b : Block) : (s.startBlock b).Inv where
  memory := h.memory
  round_le := by simp
  widx_range := by simp
  keyexp_invalid := by simp
  block_valid _ := hkey
  dout_valid_iff := by simp
  keyexp_prefix := by simp
  schedule := h.schedule

/-- A next state that keeps the invariant: what every operation answers to a state that keeps it. -/
def AnswersInv (o : Out) : Prop := ∃ t, o = .next t ∧ t.Inv

/-- The core's turn, busy or ready (R113). -/
theorem answersInv_coreTurn {s : State} (h : s.Inv) : AnswersInv (coreTurn exec s) := by
  cases hbusy : s.busy with
  | false => exact ⟨s, coreTurn_of_ready hbusy, h⟩
  | true =>
    obtain ⟨t, hturn, hcloser⟩ := coreTurn_of_busy h hbusy
    exact ⟨t, hturn, hcloser.inv⟩

/-- A command, accepted or not (R120 to R123, R138, R139). -/
theorem answersInv_command {s : State} (h : s.Inv) (cw : CommandWord) : AnswersInv (exec (decode cw) s) := by
  cases hbusy : s.busy with
  | true => exact ⟨s, exec_decode_busy hbusy cw, h⟩
  | false =>
    obtain ⟨-, hcommand⟩ | ⟨-, hcommand⟩ | ⟨-, hcommand⟩ | ⟨-, hcommand⟩ := decode_cases cw <;> rw [hcommand]
    · exact ⟨s, nopChangesNothing s _, h⟩
    · obtain ⟨rk, hwrite, hload⟩ := exec_loadkey_ready hbusy (dinField cw)
      exact ⟨_, hload, h.startExpansion hwrite⟩
    · cases hkey : s.keyValid with
      | true => exact ⟨_, exec_encrypt_ready hbusy hkey _, h.startBlock hkey _⟩
      | false => exact ⟨_, exec_encrypt_noKey _ hbusy hkey, h.raise .noKey⟩
    · exact ⟨_, exec_rsvd_ready _ hbusy, h.raise .reservedCommand⟩

/-- A run of commands and core steps by a host procedure (R126). -/
theorem answersInv_runBatch {s : State} (h : s.Inv) (k : Packed) (vs : List Packed) (ret : List Packed → Result) :
    AnswersInv (runBatch k vs ret s) := by
  obtain ⟨u, hu, -, hrun⟩ := runBatch_of_inv h k vs ret
  exact ⟨_, hrun, ((hu.afterBlocks _ _).setResult _).inv⟩

/-- The host procedure on byte sequences, with its two length checks (R127). -/
theorem answersInv_execEncryptblocks {s : State} (h : s.Inv) (key : List Byte) (blocks : List (List Byte)) :
    AnswersInv (execEncryptblocks key blocks s) := by
  unfold execEncryptblocks
  split_ifs
  · exact ⟨_, rfl, h.raise .invalidKeyLength⟩
  · exact ⟨_, rfl, h.raise .invalidBlockLength⟩
  · exact answersInv_runBatch h _ _ _

/-- Every turn, whoever moves (R9). -/
theorem answersInv_step {s : State} (h : s.Inv) : AnswersInv (step s) := by
  match hhost : s.host with
  | [] => exact step_of_no_turns hhost ▸ answersInv_coreTurn h
  | .core :: rest => exact step_core hhost ▸ answersInv_coreTurn (h.setHost rest)
  | .present cw :: rest => exact step_present hhost ▸ answersInv_command (h.setHost rest) cw
  | .hold cw :: rest =>
    cases hbusy : s.busy with
    | true => exact step_hold_busy hbusy hhost ▸ answersInv_coreTurn h
    | false => exact step_hold_ready hbusy hhost ▸ answersInv_command (h.setHost rest) cw
  | .wait :: rest =>
    cases hbusy : s.busy with
    | true => exact step_wait_busy hbusy hhost ▸ answersInv_coreTurn h
    | false => exact ⟨_, step_wait_ready hbusy hhost, h.setHost rest⟩
  | .readDout :: rest =>
    cases hvalid : s.doutValid with
    | true => exact ⟨_, step_readDout_valid hvalid hhost, h.recordDout.setHost rest⟩
    | false => exact step_readDout_invalid hvalid hhost ▸ answersInv_coreTurn h
  | .rst :: rest => exact ⟨_, step_rst hhost, (State.Inv.takeReset s).setHost rest⟩
  | .batchHw k vs :: rest => exact step_batchHw hhost ▸ answersInv_runBatch (h.setHost rest) k vs .packedBlocks
  | .batch key blocks :: rest => exact step_batch hhost ▸ answersInv_execEncryptblocks (h.setHost rest) key blocks

/-- Settles O49: the one next state a step can answer keeps the invariant. -/
theorem everyStepKeepsTheInvariant : Obligations.EveryStepKeepsTheInvariant := by
  intro s t h hstep
  obtain ⟨u, hu, hinv⟩ := answersInv_step h
  obtain rfl : u = t := Host.Outcome.next.inj (hu.symm.trans hstep)
  exact hinv

/-- Settles O50: every turn is answered. -/
theorem noStepStopsUnderTheInvariant : Obligations.NoStepStopsUnderTheInvariant := by
  intro s h
  obtain ⟨t, hstep, -⟩ := answersInv_step h
  exact ⟨t, hstep⟩

/-- Settles O51: the core is in `IDLE` with no schedule and no result. -/
theorem resetKeepsTheInvariant : Obligations.ResetKeepsTheInvariant := .of_idle_empty rfl rfl rfl rfl

/-- Settles O52: the values stand in the definition of the state. -/
theorem resetStateHasTheStatedValues : Obligations.ResetStateHasTheStatedValues :=
  ⟨rfl, rfl, rfl, rfl, rfl, rfl, State.status_reset⟩

end Sys2Proof.Machine
end

section
/-! PROOF. The accepted commands register by register (R122, R123). -/

namespace Sys2Proof.Machine

/-- Settles O11: the key's bytes stand at the offsets of the write, the rest of `RK` as before. -/
theorem loadkeyWritesGroupZeroAndStartsTheExpansion : Obligations.LoadkeyWritesGroupZeroAndStartsTheExpansion := by
  intro s din hready
  obtain ⟨rk, hwrite, hload⟩ := exec_loadkey_ready hready din
  obtain ⟨hkey, hrest, -⟩ := memWrite_spec hwrite
  refine ⟨_, hload, fun n hn => ?key, fun a ha => hrest a (by omega), rfl⟩
  case key => simpa using hkey n hn

/-- Settles O12: the command is accepted and starts the block. -/
theorem encryptUnpacksTheBlock : Obligations.EncryptUnpacksTheBlock := by
  intro s din hready hkey
  rw [exec_encrypt_ready hready hkey, State.startBlock]

end Sys2Proof.Machine
end

section
/-! SUPPORT and PROOF. The operands outside the ranges of the functions' rules (R30, R33, R68, R77, R85). -/

namespace Sys2Proof.Machine

/-- `MemRead` reaching beyond the end of an address space faults (R30, R33). -/
theorem memRead_outside {s : State} {sp : Space} {addr n : Nat} (h : sp.size < addr + n) :
    memRead s sp addr n = .error .outsideSpace := if_neg (Nat.not_le.2 h)

/-- `RCON` beyond the ROM faults (R68). -/
theorem exec_rcon_outside {j : Nat} (h : 11 ≤ j) (s : State) : exec (.rcon j) s = .fault .outsideSpace := by
  have hend : Space.rcon.size < j + 1 := by
    have hsize : Space.rcon.size = 11 := rfl
    omega
  rw [exec, execRcon, memRead_outside hend]

/-- Settles O21: entry 0 of the ROM is read like any other; the other three operands fail their range test. -/
theorem operandsOutsideTheRulesAreNamed : Obligations.OperandsOutsideTheRulesAreNamed :=
  ⟨fun s => exec_rcon s (Nat.zero_le 10), fun _ s h => exec_rcon_outside h s, fun _ _ _ _ h => if_neg (by omega),
    fun _ _ _ _ h => if_neg (by omega)⟩

end Sys2Proof.Machine
end

section
/-! PROOF. Reading `RK` after writing it (R8, R36). -/

namespace Sys2Proof.Machine

/-- Settles O60: the read after the write by the rule of `MemWrite`. -/
theorem memReadAfterMemWrite : Obligations.MemReadAfterMemWrite := by
  intro s addr n v hin
  have hwrite := memWrite_ok (s := s) (v := v) hin
  obtain ⟨hbytes, hrest, hwf⟩ := memWrite_spec hwrite
  exact ⟨_, hwrite, memRead_rk_ok hin hbytes, fun a ha => hrest a (by omega), hwf⟩

end Sys2Proof.Machine
end

section
/-! PROOF. The blocks of a batch are independent (R128). -/

namespace Sys2Proof.Machine

/-- Settles O48: both batches return the ciphertexts of their blocks, each a function of the key and its block. -/
theorem blocksAreIndependent : Obligations.BlocksAreIndependent := by
  intro s s' k vs vs' h h'
  obtain ⟨t, hrun, hresult, -⟩ := encryptBlocksHwReturnsEveryCiphertext s k vs h
  obtain ⟨t', hrun', hresult', -⟩ := encryptBlocksHwReturnsEveryCiphertext s' k vs' h'
  refine ⟨t, t', _, _, hrun, hrun', hresult, hresult', List.length_map _, List.length_map _, fun j hj => ?_⟩
  rw [List.getElem?_map, List.getElem?_map, hj]

end Sys2Proof.Machine
end

section
/-! SUPPORT and PROOF. A finished result stays until a command ends it (R124). -/

namespace Sys2Proof.Machine

/-- The registers of a finished block are the same in both states. -/
structure ResultKept (s t : State) : Prop where
  dout : t.dout = s.dout
  doutValid : t.doutValid = s.doutValid
  S : t.S = s.S
  RK : t.RK = s.RK
  phase : t.phase = s.phase

/-- Taking a turn off the host's list is no write of the core. -/
theorem ResultKept.of_setHost {s t : State} {rest : List HostEvent} (h : ResultKept (s.setHost rest) t) : ResultKept s t :=
  ⟨h.dout, h.doutValid, h.S, h.RK, h.phase⟩

/-- A word that is no `LOADKEY` and no `ENCRYPT` keeps the result, at a ready core and at a busy one (R120, R121, R139). -/
theorem resultKept_command {s t : State} {cw : CommandWord} (hcode : cmdField cw = 0b00#2 ∨ cmdField cw = 0b11#2)
    (h : exec (decode cw) s = .next t) : ResultKept s t := by
  obtain ⟨-, hcommand⟩ | ⟨hload, -⟩ | ⟨hencrypt, -⟩ | ⟨-, hcommand⟩ := decode_cases cw
  · rw [hcommand, nopChangesNothing] at h
    cases h
    exact ⟨rfl, rfl, rfl, rfl, rfl⟩
  · simp [hload] at hcode
  · simp [hencrypt] at hcode
  · rw [hcommand] at h
    obtain ⟨-, rfl⟩ | ⟨-, rfl⟩ := execRsvd_next (dinField cw) h <;> exact ⟨rfl, rfl, rfl, rfl, rfl⟩

/-- A ready core that takes its turn keeps the result: it stays (R113). -/
theorem resultKept_coreTurn {s t : State} (hready : s.busy = false) (h : coreTurn exec s = .next t) : ResultKept s t := by
  rw [coreTurn_of_ready hready] at h
  cases h
  exact ⟨rfl, rfl, rfl, rfl, rfl⟩

/-- Settles O57: `dout_valid = 1` means `DONE`, where the core is ready and stays; of the host's turns only the excluded ones write
a register of the result. -/
theorem resultStaysUntilTheNextCommand : Obligations.ResultStaysUntilTheNextCommand := by
  intro s t hinv hvalid hstep hword hrst hbatchHw hbatch
  have hready : s.busy = false := s.busy_eq_false_iff.2 (.inr (hinv.dout_valid_iff.1 hvalid))
  have hkept : ResultKept s t := by
    obtain ⟨hcore, -⟩ | ⟨rest, -, hcore⟩ | ⟨cw, rest, hhost, hcmd⟩ | ⟨rest, -, -, rfl⟩ | ⟨rest, -, -, rfl⟩ |
      ⟨rest, hhost, -⟩ | ⟨_, _, rest, hhost, -⟩ | ⟨_, _, rest, hhost, -⟩ := step_cases hstep
    · exact resultKept_coreTurn hready hcore
    · exact (resultKept_coreTurn (s := s.setHost rest) hready hcore).of_setHost
    · exact (resultKept_command (hword cw rest hhost) hcmd).of_setHost
    · exact ⟨rfl, rfl, rfl, rfl, rfl⟩
    · exact ⟨rfl, rfl, rfl, rfl, rfl⟩
    · exact absurd hhost (hrst rest)
    · exact absurd hhost (hbatchHw _ _ rest)
    · exact absurd hhost (hbatch _ _ rest)
  refine ⟨hkept.dout, hkept.doutValid.trans hvalid, hkept.S, hkept.RK, hkept.phase, fun rest hhost => ?read⟩
  case read =>
    rw [step_readDout_valid hvalid hhost] at hstep
    cases hstep
    rfl

end Sys2Proof.Machine
end

section
/-! SUPPORT and PROOF. The control part of a state moves by itself (R112): the core's turn and a command are functions of it, the
command's with its code, and no byte of data is an argument. -/

namespace Sys2Proof.Machine

/-- The control part after the core's turn, by the row of the table that applies (R56, R107 to R111). -/
def Control.afterTurn (c : Control) : Control :=
  match decodeSeq c.phase c.round c.widx with
  | some .kxStep =>
    if c.widx.toNat < 43 then { c with widx := c.widx + 1 }
    else { c with keyValid := true, phase := .idle, widx := Config.freeWidx c.freeCount, freeCount := c.freeCount + 1 }
  | some .rndInit => { c with phase := .round, round := 0 }
  | some .rndFull => { c with round := c.round + 1 }
  | some .rndFinal => { c with round := 10 }
  | some .rndDone => { c with phase := .done, doutValid := true }
  | _ => c

/-- The control part after a command that is accepted, by its code (R51, R121 to R123, R138, R139). -/
def Control.afterAccepted (c : Control) (code : BitVec 2) : Control :=
  if code = 0b00#2 then c
  else if code = 0b01#2 then { c with keyValid := false, doutValid := false, widx := 4, phase := .keyexp }
  else if code = 0b10#2 then
    if c.keyValid then { c with doutValid := false, phase := .initial } else { c with errNokey := true }
  else { c with errBadcmd := true }

/-- The core's turn moves the control part by itself. -/
theorem control_coreTurn {s t : State} (h : coreTurn exec s = .next t) : t.control = s.control.afterTurn := by
  have hdecode : decodeSeq s.control.phase s.control.round s.control.widx = s.selected := rfl
  rw [Control.afterTurn, hdecode]
  obtain ⟨i, hsel, hexec⟩ | ⟨hready, rfl⟩ := coreTurn_next h
  · rw [hsel]
    obtain rfl | rfl | rfl | rfl | rfl := selected_cases hsel
    · obtain ⟨-, -, -, p, q, rk, -, -, -, ⟨hlt, rfl⟩ | ⟨hlast, rfl⟩⟩ := execKxStep_next hexec
      · exact (if_pos hlt).symm
      · exact (if_neg (show ¬s.widx.toNat < 43 by omega)).symm
    · obtain ⟨-, k, -, rfl⟩ := execRndInit_next hexec
      rfl
    · obtain ⟨hphase, -, k, -, rfl⟩ := execRndFull_next hexec
      rw [State.enterRound_of_round hphase]
      rfl
    · obtain ⟨hphase, -, k, -, rfl⟩ := execRndFinal_next hexec
      rw [State.enterRound_of_round hphase]
      rfl
    · obtain ⟨-, -, rfl⟩ := execRndDone_next hexec
      rfl
  · rw [selected_none_of_ready hready]

/-- A command accepted by a ready core moves the control part by its code, whatever its operand. -/
theorem control_command {s t : State} {cw : CommandWord} (hready : s.busy = false) (h : exec (decode cw) s = .next t) :
    t.control = s.control.afterAccepted (cmdField cw) := by
  obtain ⟨hcode, hcommand⟩ | ⟨hcode, hcommand⟩ | ⟨hcode, hcommand⟩ | ⟨hcode, hcommand⟩ := decode_cases cw <;>
    rw [hcommand] at h <;> rw [hcode]
  · rw [nopChangesNothing] at h
    cases h
    rfl
  · obtain ⟨rk, -, hload⟩ := exec_loadkey_ready hready (dinField cw)
    rw [hload] at h
    cases h
    rfl
  · cases hkey : s.keyValid with
    | true =>
      rw [exec_encrypt_ready hready hkey] at h
      cases h
      exact (if_pos hkey).symm
    | false =>
      rw [exec_encrypt_noKey _ hready hkey] at h
      cases h
      exact (if_neg (show ¬s.keyValid = true by simp [hkey])).symm
  · rw [exec_rsvd_ready _ hready] at h
    cases h
    rfl

/-- Settles O55: both states answer, and each control part moves by the same function of the same arguments; a busy core refuses
both commands. -/
theorem controlDoesNotDependOnData : Obligations.ControlDoesNotDependOnData := by
  intro s s' hinv hinv' hcontrol
  refine ⟨fun hhost hhost' => ?turn, fun cw cw' hcode => ?command⟩
  case turn =>
    obtain ⟨t, hturn, -⟩ := answersInv_coreTurn hinv
    obtain ⟨t', hturn', -⟩ := answersInv_coreTurn hinv'
    exact ⟨t, t', (step_of_no_turns hhost).trans hturn, (step_of_no_turns hhost').trans hturn',
      by rw [control_coreTurn hturn, control_coreTurn hturn', hcontrol]⟩
  case command =>
    obtain ⟨t, hexec, -⟩ := answersInv_command hinv cw
    obtain ⟨t', hexec', -⟩ := answersInv_command hinv' cw'
    refine ⟨t, t', hexec, hexec', ?_⟩
    have hbusy : s.busy = s'.busy := State.busy_congr (congrArg Control.phase hcontrol)
    cases hready : s.busy with
    | true =>
      rw [exec_decode_busy hready] at hexec
      rw [exec_decode_busy (hbusy ▸ hready)] at hexec'
      cases hexec
      cases hexec'
      exact hcontrol
    | false => rw [control_command hready hexec, control_command (hbusy ▸ hready) hexec', hcontrol, hcode]

end Sys2Proof.Machine
end

section
/-! SUPPORT and PROOF. Who writes which register (R10, R12, R14 to R19). -/

namespace Sys2Proof.Machine

/-- A sequencer step that answered is one of the five, and did what its rule says (R107 to R111). -/
theorem execSeq_next_cases {i : Instr} {s t : State} (h : execSeq i s = .next t) :
    (i = .kxStep ∧ ∃ rk, t = s.nextWord rk ∨ s.widx.toNat = 43 ∧ t = s.finishExpansion rk) ∨
      (i = .rndInit ∧ ∃ b, t = s.enterRound b 0) ∨
      ((i = .rndFull ∨ i = .rndFinal) ∧ s.phase = .round ∧ ∃ b r, t = s.enterRound b r) ∨
      (i = .rndDone ∧ ∃ v, t = s.finishBlock v) := by
  unfold execSeq at h
  split at h
  · obtain ⟨-, -, -, p, q, rk, -, -, -, ⟨-, hnext⟩ | hlast⟩ := execKxStep_next h
    · exact .inl ⟨rfl, rk, .inl hnext⟩
    · exact .inl ⟨rfl, rk, .inr hlast⟩
  · obtain ⟨-, k, -, hnext⟩ := execRndInit_next h
    exact .inr (.inl ⟨rfl, _, hnext⟩)
  · obtain ⟨hphase, -, k, -, hnext⟩ := execRndFull_next h
    exact .inr (.inr (.inl ⟨.inl rfl, hphase, _, _, hnext⟩))
  · obtain ⟨hphase, -, k, -, hnext⟩ := execRndFinal_next h
    exact .inr (.inr (.inl ⟨.inr rfl, hphase, _, _, hnext⟩))
  · obtain ⟨-, -, hnext⟩ := execRndDone_next h
    exact .inr (.inr (.inr ⟨rfl, _, hnext⟩))
  · simp at h

/-- Settles O58: each operation that answers did one of its updates, and an update writes the registers it names. -/
theorem eachRegisterHasItsWriters : Obligations.EachRegisterHasItsWriters := by
  intro i s t h hhw hbatch
  obtain hseq | ⟨r, rfl⟩ | ⟨_, rfl, rfl⟩ | ⟨_, rfl, hload⟩ | ⟨_, rfl, henc⟩ | ⟨_, rfl, hrsvd⟩ | ⟨k, vs, rfl, -⟩ |
    ⟨key, blocks, rfl, -⟩ := exec_next_cases h
  · obtain ⟨rfl, rk, rfl | ⟨hlast, rfl⟩⟩ | ⟨rfl, b, rfl⟩ | ⟨rfl | rfl, hphase, b, r, rfl⟩ | ⟨rfl, v, rfl⟩ :=
      execSeq_next_cases hseq
    · simp +contextual
    · simp +contextual [hlast]
    · simp +contextual
    · simp +contextual [hphase]
    · simp +contextual [hphase]
    · simp +contextual
  · simp +contextual
  · simp +contextual
  · obtain ⟨-, rfl⟩ | ⟨-, rk, -, rfl⟩ := execLoadkey_next hload <;> simp +contextual
  · obtain ⟨-, rfl⟩ | ⟨-, -, rfl⟩ | ⟨-, -, rfl⟩ := execEncrypt_next henc <;> simp +contextual
  · obtain ⟨-, rfl⟩ | ⟨-, rfl⟩ := execRsvd_next _ hrsvd <;> simp +contextual
  · exact absurd rfl (hhw k vs)
  · exact absurd rfl (hbatch key blocks)

end Sys2Proof.Machine
end

section
/-! SUPPORT and PROOF. The S-box against its construction (R65). The affine map has an inverse, so the field inverse of a byte can be
computed back from its entry of the table, and a check of the 256 bytes confirms it. -/

namespace Sys2Proof

/-- The inverse of the affine map of the construction: a check, no operation of the core. -/
def sboxAffineInverse (y : Byte) : Byte := y.rotateLeft 1 ^^^ y.rotateLeft 3 ^^^ y.rotateLeft 6 ^^^ 0x05

theorem sboxAffine_sboxAffineInverse (y : Byte) : sboxAffine (sboxAffineInverse y) = y := by
  revert y
  decide

set_option maxRecDepth 2000 in
theorem sboxTable_foldl_xor : sboxTable.foldl (· ^^^ ·) 0 = 0x00 := by decide

set_option maxRecDepth 2000 in
theorem sboxTable_sum : (sboxTable.map BitVec.toNat).sum = 32640 := by decide

/-- No byte is sent to itself or to its complement. -/
theorem sbox_ne_self_and_ne_complement (b : Byte) : sbox b ≠ b ∧ sbox b ≠ b ^^^ 0xff := by
  revert b
  decide

/-- Before the affine map an entry is the field inverse of its byte. -/
theorem gmul_sboxAffineInverse_sbox (b : Byte) : b ≠ 0 → gmul b (sboxAffineInverse (sbox b)) = 0x01 := by
  revert b
  decide


end Sys2Proof

namespace Sys2Proof.Machine

/-- Settles O23: the inverse affine map gives the field inverse; the checks of the whole table are evaluations. -/
theorem sboxAgreesWithItsConstruction : Obligations.SboxAgreesWithItsConstruction := by
  refine ⟨sboxTable_length, sbox_ne_self_and_ne_complement, sboxTable_foldl_xor, sboxTable_sum, rfl, ?inverse⟩
  case inverse =>
    intro b hb
    exact ⟨_, gmul_sboxAffineInverse_sbox b hb, (sboxAffine_sboxAffineInverse _).symm⟩

end Sys2Proof.Machine
end

section
/-! SUPPORT and PROOF. The conformance vectors (R125). A whole encryption is checked along its trace, the round keys and the states
between the steps as spec/95_test_vectors.md L2.6 writes them: each row from the one before, so that no evaluation is long. -/

namespace Sys2Proof

/-- The word in column `j` of a state or of a round key (R7, R11). -/
def Block.column (b : Block) (j : Nat) : Word := #v[Block.at b 0 j, Block.at b 1 j, Block.at b 2 j, Block.at b 3 j]

theorem Block.column_get (b : Block) {j i : Nat} (hi : i < 4) : (Block.column b j)[i] = Block.at b i j := by
  interval_cases i <;> rfl

theorem block_ext_column {b b' : Block} (h : ∀ j, j < 4 → Block.column b j = Block.column b' j) : b = b' := by
  refine block_ext_at fun i j hi hj => ?_
  rw [← Block.column_get b hi, ← Block.column_get b' hi, h j hj]

theorem column_roundKey (r : Schedule) (g : Nat) {j : Nat} (hj : j < 4) :
    Block.column (roundKey r g) j = Schedule.wordAt r (4 * g + j) := by
  refine Vector.ext fun i hi => ?_
  have hbyte : 16 * g + (4 * j + i) = 4 * (4 * g + j) + i := by omega
  rw [Block.column_get _ hi, block_at _ (by omega), roundKey_get _ _ (by omega), hbyte, Schedule.wordAt_get _ _ hi]

/-- `k'` is the round key of round `g` when `k` is that of the round before (R80). -/
def isNextRoundKey (g : Nat) (k k' : Block) : Bool :=
  Block.column k' 0 == kexpWord (4 * g) (Block.column k 3) (Block.column k 0) &&
    (List.range 3).all fun j => Block.column k' (j + 1) == xorWord (Block.column k' j) (Block.column k (j + 1))

theorem roundKey_succ_of_isNextRoundKey {k : Block} {g : Nat} (hg : g ≤ 9) {k' : Block}
    (h : isNextRoundKey (g + 1) (roundKey (expandKey k) g) k' = true) : roundKey (expandKey k) (g + 1) = k' := by
  simp only [isNextRoundKey, Bool.and_eq_true, List.all_eq_true, List.mem_range, beq_iff_eq] at h
  obtain ⟨hfirst, hothers⟩ := h
  refine block_ext_column fun j hj => ?_
  rw [column_roundKey _ _ hj]
  induction j with
  | zero =>
    rw [hfirst, column_roundKey _ _ (by omega), column_roundKey _ _ (by omega)]
    exact wordAt_expandKey_newGroup k hg
  | succ j ih =>
    rw [hothers j (by omega), column_roundKey _ _ hj, ← ih (by omega)]
    exact wordAt_expandKey_insideGroup k hg (by omega)

/-- The state after round `g` (R105): the tenth round is the final one. -/
def stateAfter (b : Block) (r : Schedule) (g : Nat) : Block := if g = 10 then cipher b r else roundsTo b r g

/-- Round `g` with its round key already taken from the schedule (R90). -/
def roundWith (g : Nat) (s k : Block) : Block := if g = 10 then finalRoundWith s k else fullRoundWith s k

theorem stateAfter_succ (b : Block) (r : Schedule) {g : Nat} (hg : g ≤ 9) :
    stateAfter b r (g + 1) = roundWith (g + 1) (stateAfter b r g) (roundKey r (g + 1)) := by
  obtain hlt | rfl := hg.lt_or_eq
  · have hfull : g + 1 ≠ 10 := by omega
    have hbefore : g ≠ 10 := by omega
    rw [stateAfter, stateAfter, roundWith, if_neg hfull, if_neg hfull, if_neg hbefore, roundsTo, fullRound]
  · rfl

/-- A row of a trace: the round key of a round and the state after it. -/
structure TraceRow where
  key : Block
  state : Block

/-- `row` is the row of round `g` in the encryption of `b` under `k`. -/
structure AtRound (k b : Block) (g : Nat) (row : TraceRow) : Prop where
  key : row.key = roundKey (expandKey k) g
  state : row.state = stateAfter b (expandKey k) g

/-- Follow a trace row by row from round `g`: the state after round 10, if every row comes from the one before. -/
def followTrace (g : Nat) (row : TraceRow) : List TraceRow → Option Block
  | [] => if g = 10 then some row.state else none
  | row' :: rows =>
    if g ≤ 9 ∧ isNextRoundKey (g + 1) row.key row'.key = true ∧ row'.state = roundWith (g + 1) row.state row'.key then
      followTrace (g + 1) row' rows
    else none

theorem AtRound.zero (k b : Block) : AtRound k b 0 ⟨k, xorBlock b k⟩ where
  key := (roundKey_expandKey_zero k).symm
  state := congrArg (xorBlock b) (roundKey_expandKey_zero k).symm

theorem AtRound.succ {k b : Block} {g : Nat} {row row' : TraceRow} (h : AtRound k b g row) (hg : g ≤ 9)
    (hkey : isNextRoundKey (g + 1) row.key row'.key = true)
    (hstate : row'.state = roundWith (g + 1) row.state row'.key) : AtRound k b (g + 1) row' := by
  rw [h.key] at hkey
  have hnext := roundKey_succ_of_isNextRoundKey hg hkey
  exact ⟨hnext.symm, by rw [hstate, stateAfter_succ _ _ hg, hnext, h.state]⟩

theorem AtRound.cipher_eq {k b c : Block} {g : Nat} {row : TraceRow} {rows : List TraceRow} (h : AtRound k b g row)
    (hfollow : followTrace g row rows = some c) : cipher b (expandKey k) = c := by
  induction rows generalizing g row with
  | nil =>
    rw [followTrace] at hfollow
    split at hfollow
    · subst g
      rw [← Option.some.inj hfollow, h.state, stateAfter, if_pos rfl]
    · simp at hfollow
  | cons row' rows ih =>
    rw [followTrace] at hfollow
    split at hfollow
    case isTrue hrow =>
      obtain ⟨hg, hkey, hstate⟩ := hrow
      exact ih (h.succ hg hkey hstate) hfollow
    case isFalse => simp at hfollow

/-- A trace that can be followed from the key and the block ends in the ciphertext. -/
theorem encryptBlock_of_trace {k v c : Packed} {rows : List TraceRow}
    (h : followTrace 0 ⟨unpackKey k, xorBlock (unpack v) (unpackKey k)⟩ rows = some (unpack c)) : encryptBlock k v = c := by
  rw [encryptBlock, (AtRound.zero _ _).cipher_eq h, pack_unpack]

/-- The sixteen bytes of 32 hex digits, the first byte first (R6). -/
def ofHex (v : Packed) : Block := Vector.ofFn fun n : Fin 16 => ext v n.val

/-- The rounds 1 to 10 of the conformance vector (spec/95_test_vectors.md L2.3, L2.6). -/
def conformanceTrace : List TraceRow :=
  [⟨ofHex 0xa0fafe1788542cb123a339392a6c7605, ofHex 0xf265e8d51fd2397bc3b9976d9076505c⟩,
   ⟨ofHex 0xf2c295f27a96b9435935807a7359f67f, ofHex 0xfdf37cdb4b0c8c1bf7fcd8e94aa9bbf8⟩,
   ⟨ofHex 0x3d80477d4716fe3e1e237e446d7a883b, ofHex 0xacd1ec9ca242e2c31f690f7ab704b90f⟩,
   ⟨ofHex 0xef44a541a8525b7fb671253bdb0bad00, ofHex 0xa2616e5f44a54d39c029e20092b764e9⟩,
   ⟨ofHex 0xd4d1c6f87c839d87caf2b8bc11f915bc, ofHex 0x2c4af31432c3efc9c8a9b87b252ecda7⟩,
   ⟨ofHex 0x6d88a37a110b3efddbf98641ca0093fd, ofHex 0xcd4dc0137eb3ba1993b939ff2bd3bcf7⟩,
   ⟨ofHex 0x4e54f70e5f5fc9f384a64fb24ea6dc4f, ofHex 0xe26dbb7d40d22134e3b7fda26b9b077c⟩,
   ⟨ofHex 0xead27321b58dbad2312bf5607f8d292f, ofHex 0x41d7c6537d669140dd2f179d02acc51b⟩,
   ⟨ofHex 0xac7766f319fadc2128d12941575c006e, ofHex 0xbb36c7eb88334d49a4e7112e74f182c4⟩,
   ⟨ofHex 0xd014f9a8c9ee2589e13f0cc8b6630ca6, ofHex 0x3ad77bb40d7a3660a89ecaf32466ef97⟩]

/-- The rounds 1 to 10 of the AES standard's example, Appendix C.1, of which spec/95_test_vectors.md L2.7 gives the ends. -/
def standardTrace : List TraceRow :=
  [⟨ofHex 0xd6aa74fdd2af72fadaa678f1d6ab76fe, ofHex 0x89d810e8855ace682d1843d8cb128fe4⟩,
   ⟨ofHex 0xb692cf0b643dbdf1be9bc5006830b3fe, ofHex 0x4915598f55e5d7a0daca94fa1f0a63f7⟩,
   ⟨ofHex 0xb6ff744ed2c2c9bf6c590cbf0469bf41, ofHex 0xfa636a2825b339c940668a3157244d17⟩,
   ⟨ofHex 0x47f7f7bc95353e03f96c32bcfd058dfd, ofHex 0x247240236966b3fa6ed2753288425b6c⟩,
   ⟨ofHex 0x3caaa3e8a99f9deb50f3af57adf622aa, ofHex 0xc81677bc9b7ac93b25027992b0261996⟩,
   ⟨ofHex 0x5e390f7df7a69296a7553dc10aa31f6b, ofHex 0xc62fe109f75eedc3cc79395d84f9cf5d⟩,
   ⟨ofHex 0x14f9701ae35fe28c440adf4d4ea9c026, ofHex 0xd1876c0f79c4300ab45594add66ff41f⟩,
   ⟨ofHex 0x47438735a41c65b9e016baf4aebf7ad2, ofHex 0xfde3bad205e5d0d73547964ef1fe37f1⟩,
   ⟨ofHex 0x549932d1f08557681093ed9cbe2c974e, ofHex 0xbd6e7c3df2b5779e0b61216e8b10b689⟩,
   ⟨ofHex 0x13111d7fe3944a17f307a78b4d2b30c5, ofHex 0x69c4e0d86a7b0430d8cdb78070b4c55a⟩]

end Sys2Proof

namespace Sys2Proof.Machine

/-- Settles O42: both traces can be followed to the ciphertext. -/
theorem conformanceVectorsHold : Obligations.ConformanceVectorsHold :=
  ⟨encryptBlock_of_trace (rows := conformanceTrace) (by decide), encryptBlock_of_trace (rows := standardTrace) (by decide)⟩

end Sys2Proof.Machine
end
